-- ==== Sys2Proof/Word.lean ====
section
/-! DEFINITION. The word types of the machine (00_scope.md R4, R6): a register and an instruction are 64 bits, a memory
cell is one byte, the immediate field is 32 bits, the offset field 16 bits. -/
namespace Sys2Proof

/-- A 64-bit value: a register (R21), an instruction word (R60), a data address (R40). -/
abbrev Word := BitVec 64

/-- One byte of data memory (R40) or of a program image (R55). -/
abbrev Byte := BitVec 8

/-- The 32-bit `imm` field (R60, R69). -/
abbrev Imm := BitVec 32

/-- The 16-bit `off` field, read as a signed number wherever it is used (R70). -/
abbrev Off := BitVec 16

end Sys2Proof
end

