-- ==== Sys2Proof/Syntax.lean ====
section
/-! DEFINITION. The syntax of the instruction set: one constructor of `Instr` for each of the 100 rows of the opcode table
(30_encoding.md R66). Operands stand in the order the source's mnemonic column writes them (R75). -/
namespace Sys2Proof

/-- A register number, `r0` to `r11` (10_state.md R21). Numbers 12 to 15 name no register (R25); the decoder turns them
away. -/
abbrev Reg := Fin 12

/-- The three legal selectors of `be` (40_alu32.md R120). -/
inductive SwapSize where
  | swap16
  | swap32
  | swap64
  deriving DecidableEq, Repr

/-- The 100 instructions (30_encoding.md R66). The immediate and the register form of an operation share a mnemonic and
are two constructors. -/
inductive Instr where
  -- Class 1, loads (43_memory_ops.md)
  /-- `ldxw dst, [src + off]`, opcode `0x61` (R203). -/
  | ldxw (dst : Reg) (src : Reg) (off : Off)
  /-- `ldxh dst, [src + off]`, opcode `0x69` (R204). -/
  | ldxh (dst : Reg) (src : Reg) (off : Off)
  /-- `ldxb dst, [src + off]`, opcode `0x71` (R205). -/
  | ldxb (dst : Reg) (src : Reg) (off : Off)
  /-- `ldxdw dst, [src + off]`, opcode `0x79` (R206). -/
  | ldxdw (dst : Reg) (src : Reg) (off : Off)
  -- Class 2, stores of an immediate (43_memory_ops.md)
  /-- `stw [dst + off], imm`, opcode `0x62` (R207). -/
  | stw (dst : Reg) (off : Off) (imm : Imm)
  /-- `sth [dst + off], imm`, opcode `0x6A` (R208). -/
  | sth (dst : Reg) (off : Off) (imm : Imm)
  /-- `stb [dst + off], imm`, opcode `0x72` (R209). -/
  | stb (dst : Reg) (off : Off) (imm : Imm)
  /-- `stdw [dst + off], imm`, opcode `0x7A` (R210). -/
  | stdw (dst : Reg) (off : Off) (imm : Imm)
  -- Class 3, stores of a register (43_memory_ops.md)
  /-- `stxw [dst + off], src`, opcode `0x63` (R211). -/
  | stxw (dst : Reg) (off : Off) (src : Reg)
  /-- `stxh [dst + off], src`, opcode `0x6B` (R212). -/
  | stxh (dst : Reg) (off : Off) (src : Reg)
  /-- `stxb [dst + off], src`, opcode `0x73` (R213). -/
  | stxb (dst : Reg) (off : Off) (src : Reg)
  /-- `stxdw [dst + off], src`, opcode `0x7B` (R214). -/
  | stxdw (dst : Reg) (off : Off) (src : Reg)
  -- Class 4, 32-bit arithmetic and logic (40_alu32.md)
  /-- `add dst, imm`, opcode `0x04` (R102). -/
  | addImm (dst : Reg) (imm : Imm)
  /-- `add dst, src`, opcode `0x0C` (R103). -/
  | addReg (dst : Reg) (src : Reg)
  /-- `sub dst, imm`, opcode `0x14` (R104). -/
  | subImm (dst : Reg) (imm : Imm)
  /-- `sub dst, src`, opcode `0x1C` (R105). -/
  | subReg (dst : Reg) (src : Reg)
  /-- `or dst, imm`, opcode `0x44` (R106). -/
  | orImm (dst : Reg) (imm : Imm)
  /-- `or dst, src`, opcode `0x4C` (R107). -/
  | orReg (dst : Reg) (src : Reg)
  /-- `and dst, imm`, opcode `0x54` (R108). -/
  | andImm (dst : Reg) (imm : Imm)
  /-- `and dst, src`, opcode `0x5C` (R109). -/
  | andReg (dst : Reg) (src : Reg)
  /-- `lsh dst, imm`, opcode `0x64` (R110). -/
  | lshImm (dst : Reg) (imm : Imm)
  /-- `lsh dst, src`, opcode `0x6C` (R111). -/
  | lshReg (dst : Reg) (src : Reg)
  /-- `rsh dst, imm`, opcode `0x74` (R112). -/
  | rshImm (dst : Reg) (imm : Imm)
  /-- `rsh dst, src`, opcode `0x7C` (R113). -/
  | rshReg (dst : Reg) (src : Reg)
  /-- `xor dst, imm`, opcode `0xA4` (R114). -/
  | xorImm (dst : Reg) (imm : Imm)
  /-- `xor dst, src`, opcode `0xAC` (R115). -/
  | xorReg (dst : Reg) (src : Reg)
  /-- `mov dst, imm`, opcode `0xB4` (R116). -/
  | movImm (dst : Reg) (imm : Imm)
  /-- `mov dst, src`, opcode `0xBC` (R117). -/
  | movReg (dst : Reg) (src : Reg)
  /-- `ash dst, imm`, opcode `0xC4` (R118). -/
  | ashImm (dst : Reg) (imm : Imm)
  /-- `ash dst, src`, opcode `0xCC` (R119). -/
  | ashReg (dst : Reg) (src : Reg)
  /-- `be dst, imm`, opcode `0xDC` (R120). -/
  | be (dst : Reg) (size : SwapSize)
  -- Class 6, product, quotient and remainder (42_pqr.md)
  /-- `uhmul64 dst, imm`, opcode `0x36` (R164). -/
  | uhmul64Imm (dst : Reg) (imm : Imm)
  /-- `uhmul64 dst, src`, opcode `0x3E` (R165). -/
  | uhmul64Reg (dst : Reg) (src : Reg)
  /-- `udiv32 dst, imm`, opcode `0x46` (R166). -/
  | udiv32Imm (dst : Reg) (imm : Imm)
  /-- `udiv32 dst, src`, opcode `0x4E` (R167). -/
  | udiv32Reg (dst : Reg) (src : Reg)
  /-- `udiv64 dst, imm`, opcode `0x56` (R168). -/
  | udiv64Imm (dst : Reg) (imm : Imm)
  /-- `udiv64 dst, src`, opcode `0x5E` (R169). -/
  | udiv64Reg (dst : Reg) (src : Reg)
  /-- `urem32 dst, imm`, opcode `0x66` (R170). -/
  | urem32Imm (dst : Reg) (imm : Imm)
  /-- `urem32 dst, src`, opcode `0x6E` (R171). -/
  | urem32Reg (dst : Reg) (src : Reg)
  /-- `urem64 dst, imm`, opcode `0x76` (R172). -/
  | urem64Imm (dst : Reg) (imm : Imm)
  /-- `urem64 dst, src`, opcode `0x7E` (R173). -/
  | urem64Reg (dst : Reg) (src : Reg)
  /-- `lmul32 dst, imm`, opcode `0x86` (R174). -/
  | lmul32Imm (dst : Reg) (imm : Imm)
  /-- `lmul32 dst, src`, opcode `0x8E` (R175). -/
  | lmul32Reg (dst : Reg) (src : Reg)
  /-- `lmul64 dst, imm`, opcode `0x96` (R176). -/
  | lmul64Imm (dst : Reg) (imm : Imm)
  /-- `lmul64 dst, src`, opcode `0x9E` (R177). -/
  | lmul64Reg (dst : Reg) (src : Reg)
  /-- `shmul64 dst, imm`, opcode `0xB6` (R178). -/
  | shmul64Imm (dst : Reg) (imm : Imm)
  /-- `shmul64 dst, src`, opcode `0xBE` (R179). -/
  | shmul64Reg (dst : Reg) (src : Reg)
  /-- `sdiv32 dst, imm`, opcode `0xC6` (R180). -/
  | sdiv32Imm (dst : Reg) (imm : Imm)
  /-- `sdiv32 dst, src`, opcode `0xCE` (R181). -/
  | sdiv32Reg (dst : Reg) (src : Reg)
  /-- `sdiv64 dst, imm`, opcode `0xD6` (R182). -/
  | sdiv64Imm (dst : Reg) (imm : Imm)
  /-- `sdiv64 dst, src`, opcode `0xDE` (R183). -/
  | sdiv64Reg (dst : Reg) (src : Reg)
  /-- `srem32 dst, imm`, opcode `0xE6` (R184). -/
  | srem32Imm (dst : Reg) (imm : Imm)
  /-- `srem32 dst, src`, opcode `0xEE` (R185). -/
  | srem32Reg (dst : Reg) (src : Reg)
  /-- `srem64 dst, imm`, opcode `0xF6` (R186). -/
  | srem64Imm (dst : Reg) (imm : Imm)
  /-- `srem64 dst, src`, opcode `0xFE` (R187). -/
  | srem64Reg (dst : Reg) (src : Reg)
  -- Class 7, 64-bit arithmetic and logic (41_alu64.md)
  /-- `add64 dst, imm`, opcode `0x07` (R132). -/
  | add64Imm (dst : Reg) (imm : Imm)
  /-- `add64 dst, src`, opcode `0x0F` (R133). -/
  | add64Reg (dst : Reg) (src : Reg)
  /-- `sub64 dst, imm`, opcode `0x17` (R134). -/
  | sub64Imm (dst : Reg) (imm : Imm)
  /-- `sub64 dst, src`, opcode `0x1F` (R135). -/
  | sub64Reg (dst : Reg) (src : Reg)
  /-- `or64 dst, imm`, opcode `0x47` (R136). -/
  | or64Imm (dst : Reg) (imm : Imm)
  /-- `or64 dst, src`, opcode `0x4F` (R137). -/
  | or64Reg (dst : Reg) (src : Reg)
  /-- `and64 dst, imm`, opcode `0x57` (R138). -/
  | and64Imm (dst : Reg) (imm : Imm)
  /-- `and64 dst, src`, opcode `0x5F` (R139). -/
  | and64Reg (dst : Reg) (src : Reg)
  /-- `lsh64 dst, imm`, opcode `0x67` (R140). -/
  | lsh64Imm (dst : Reg) (imm : Imm)
  /-- `lsh64 dst, src`, opcode `0x6F` (R141). -/
  | lsh64Reg (dst : Reg) (src : Reg)
  /-- `rsh64 dst, imm`, opcode `0x77` (R142). -/
  | rsh64Imm (dst : Reg) (imm : Imm)
  /-- `rsh64 dst, src`, opcode `0x7F` (R143). -/
  | rsh64Reg (dst : Reg) (src : Reg)
  /-- `xor64 dst, imm`, opcode `0xA7` (R144). -/
  | xor64Imm (dst : Reg) (imm : Imm)
  /-- `xor64 dst, src`, opcode `0xAF` (R145). -/
  | xor64Reg (dst : Reg) (src : Reg)
  /-- `mov64 dst, imm`, opcode `0xB7` (R146). -/
  | mov64Imm (dst : Reg) (imm : Imm)
  /-- `mov64 dst, src`, opcode `0xBF` (R147). -/
  | mov64Reg (dst : Reg) (src : Reg)
  /-- `ash64 dst, imm`, opcode `0xC7` (R148). -/
  | ash64Imm (dst : Reg) (imm : Imm)
  /-- `ash64 dst, src`, opcode `0xCF` (R149). -/
  | ash64Reg (dst : Reg) (src : Reg)
  /-- `hor64 dst, imm`, opcode `0xF7` (R150). -/
  | hor64 (dst : Reg) (imm : Imm)
  -- Class 5, control flow (44_control_flow.md)
  /-- `ja off`, opcode `0x05` (R224). -/
  | ja (off : Off)
  /-- `jeq dst, imm, off`, opcode `0x15` (R225). -/
  | jeqImm (dst : Reg) (imm : Imm) (off : Off)
  /-- `jeq dst, src, off`, opcode `0x1D` (R226). -/
  | jeqReg (dst : Reg) (src : Reg) (off : Off)
  /-- `jgt dst, imm, off`, opcode `0x25` (R227). -/
  | jgtImm (dst : Reg) (imm : Imm) (off : Off)
  /-- `jgt dst, src, off`, opcode `0x2D` (R228). -/
  | jgtReg (dst : Reg) (src : Reg) (off : Off)
  /-- `jge dst, imm, off`, opcode `0x35` (R229). -/
  | jgeImm (dst : Reg) (imm : Imm) (off : Off)
  /-- `jge dst, src, off`, opcode `0x3D` (R230). -/
  | jgeReg (dst : Reg) (src : Reg) (off : Off)
  /-- `jset dst, imm, off`, opcode `0x45` (R231). -/
  | jsetImm (dst : Reg) (imm : Imm) (off : Off)
  /-- `jset dst, src, off`, opcode `0x4D` (R232). -/
  | jsetReg (dst : Reg) (src : Reg) (off : Off)
  /-- `jne dst, imm, off`, opcode `0x55` (R233). -/
  | jneImm (dst : Reg) (imm : Imm) (off : Off)
  /-- `jne dst, src, off`, opcode `0x5D` (R234). -/
  | jneReg (dst : Reg) (src : Reg) (off : Off)
  /-- `jsgt dst, imm, off`, opcode `0x65` (R235). -/
  | jsgtImm (dst : Reg) (imm : Imm) (off : Off)
  /-- `jsgt dst, src, off`, opcode `0x6D` (R236). -/
  | jsgtReg (dst : Reg) (src : Reg) (off : Off)
  /-- `jsge dst, imm, off`, opcode `0x75` (R237). -/
  | jsgeImm (dst : Reg) (imm : Imm) (off : Off)
  /-- `jsge dst, src, off`, opcode `0x7D` (R238). -/
  | jsgeReg (dst : Reg) (src : Reg) (off : Off)
  /-- `call off`, opcode `0x85` (R247). -/
  | call (off : Off)
  /-- `callx src`, opcode `0x8D` (R248). -/
  | callx (src : Reg)
  /-- `exit`, opcode `0x95` (R249). -/
  | exit
  /-- `jlt dst, imm, off`, opcode `0xA5` (R239). -/
  | jltImm (dst : Reg) (imm : Imm) (off : Off)
  /-- `jlt dst, src, off`, opcode `0xAD` (R240). -/
  | jltReg (dst : Reg) (src : Reg) (off : Off)
  /-- `jle dst, imm, off`, opcode `0xB5` (R241). -/
  | jleImm (dst : Reg) (imm : Imm) (off : Off)
  /-- `jle dst, src, off`, opcode `0xBD` (R242). -/
  | jleReg (dst : Reg) (src : Reg) (off : Off)
  /-- `jslt dst, imm, off`, opcode `0xC5` (R243). -/
  | jsltImm (dst : Reg) (imm : Imm) (off : Off)
  /-- `jslt dst, src, off`, opcode `0xCD` (R244). -/
  | jsltReg (dst : Reg) (src : Reg) (off : Off)
  /-- `jsle dst, imm, off`, opcode `0xD5` (R245). -/
  | jsleImm (dst : Reg) (imm : Imm) (off : Off)
  /-- `jsle dst, src, off`, opcode `0xDD` (R246). -/
  | jsleReg (dst : Reg) (src : Reg) (off : Off)
  deriving DecidableEq, Repr

end Sys2Proof
end

