-- ==== Sys2Proof/WellFormed.lean ====
section
/-! DEFINITION. Which register numbers an instruction may name (10_state.md R22 to R26; 30_encoding.md R72). The selector
of `be` is legal by its type. -/
namespace Sys2Proof

/-- `r0` to `r9`, the general registers (R22). -/
def isGpr (r : Reg) : Bool := decide (r.val ≤ 9)

/-- `r0` to `r10`: the registers that may be read as `src`, or as the base of a store (R23). -/
def isReadable (r : Reg) : Bool := decide (r.val ≤ 10)

/-- `r0` to `r9` and `r11`: the destinations of `add64 dst, imm` (R24). -/
def isAddDst (r : Reg) : Bool := decide (r.val ≤ 9) || decide (r.val = 11)

/-- The validity table of R26, one alternative for each of its rows. -/
def Instr.wellFormed : Instr → Bool
  -- `add64 dst, imm`
  | .add64Imm dst _ => isAddDst dst
  -- the other immediate forms of classes 4, 6 and 7
  | .addImm dst _ | .subImm dst _ | .orImm dst _ | .andImm dst _
  | .lshImm dst _ | .rshImm dst _ | .xorImm dst _ | .movImm dst _
  | .ashImm dst _ | .be dst _ | .uhmul64Imm dst _ | .udiv32Imm dst _
  | .udiv64Imm dst _ | .urem32Imm dst _ | .urem64Imm dst _ | .lmul32Imm dst _
  | .lmul64Imm dst _ | .shmul64Imm dst _ | .sdiv32Imm dst _ | .sdiv64Imm dst _
  | .srem32Imm dst _ | .srem64Imm dst _ | .sub64Imm dst _ | .or64Imm dst _
  | .and64Imm dst _ | .lsh64Imm dst _ | .rsh64Imm dst _ | .xor64Imm dst _
  | .mov64Imm dst _ | .ash64Imm dst _ | .hor64 dst _ => isGpr dst
  -- the register forms of classes 4, 6 and 7
  | .addReg dst src | .subReg dst src | .orReg dst src | .andReg dst src
  | .lshReg dst src | .rshReg dst src | .xorReg dst src | .movReg dst src
  | .ashReg dst src | .uhmul64Reg dst src | .udiv32Reg dst src | .udiv64Reg dst src
  | .urem32Reg dst src | .urem64Reg dst src | .lmul32Reg dst src | .lmul64Reg dst src
  | .shmul64Reg dst src | .sdiv32Reg dst src | .sdiv64Reg dst src | .srem32Reg dst src
  | .srem64Reg dst src | .add64Reg dst src | .sub64Reg dst src | .or64Reg dst src
  | .and64Reg dst src | .lsh64Reg dst src | .rsh64Reg dst src | .xor64Reg dst src
  | .mov64Reg dst src | .ash64Reg dst src => isGpr dst && isReadable src
  -- loads
  | .ldxw dst src _ | .ldxh dst src _ | .ldxb dst src _ | .ldxdw dst src _ => isGpr dst && isReadable src
  -- stores of an immediate
  | .stw dst _ _ | .sth dst _ _ | .stb dst _ _ | .stdw dst _ _ => isReadable dst
  -- stores of a register
  | .stxw dst _ src | .stxh dst _ src | .stxb dst _ src | .stxdw dst _ src => isReadable dst && isReadable src
  -- conditional jumps, immediate forms
  | .jeqImm dst _ _ | .jgtImm dst _ _ | .jgeImm dst _ _ | .jsetImm dst _ _
  | .jneImm dst _ _ | .jsgtImm dst _ _ | .jsgeImm dst _ _ | .jltImm dst _ _
  | .jleImm dst _ _ | .jsltImm dst _ _ | .jsleImm dst _ _ => isGpr dst
  -- conditional jumps, register forms
  | .jeqReg dst src _ | .jgtReg dst src _ | .jgeReg dst src _ | .jsetReg dst src _
  | .jneReg dst src _ | .jsgtReg dst src _ | .jsgeReg dst src _ | .jltReg dst src _
  | .jleReg dst src _ | .jsltReg dst src _ | .jsleReg dst src _ => isGpr dst && isReadable src
  -- `callx`
  | .callx src => isGpr src
  -- `ja`, `call`, `exit`
  | .ja _ | .call _ | .exit => true

end Sys2Proof
end

