-- ==== Sys2Proof/Decode.lean ====
section
/-! DEFINITION. Decoding and encoding (30_encoding.md). One format (R60): the word is cut into its fields, the opcode byte
is looked up in the table of R66, the fields are checked in the order of R264. Then the encoder, written from the same
table row by row, and the byte image of a word (20_memory.md R55). -/
namespace Sys2Proof

/-! ## The fields of a word (R60) -/

/-- Bits 7..0: class and operation code together. -/
def opcField (w : Word) : BitVec 8 := w.extractLsb' 0 8

/-- Bits 11..8. -/
def dstField (w : Word) : BitVec 4 := w.extractLsb' 8 4

/-- Bits 15..12. -/
def srcField (w : Word) : BitVec 4 := w.extractLsb' 12 4

/-- Bits 31..16. -/
def offField (w : Word) : Off := w.extractLsb' 16 16

/-- Bits 63..32. -/
def immField (w : Word) : Imm := w.extractLsb' 32 32

/-- Why a word is not an instruction (R72). -/
inductive DecodeError where
  /-- The opcode byte is one of the 156 reserved ones (R67). -/
  | reservedOpcode
  /-- A register field the instruction uses holds a number R26 does not allow. -/
  | badRegister
  /-- `be` with an immediate other than 16, 32, 64 (R120). -/
  | badSelector
  /-- A field the instruction does not use is not zero (R71). -/
  | unusedField
  deriving DecidableEq, Repr

/-- The operand shapes of the table (its column `format`), each with the constructor of the row. -/
inductive Shape where
  | aluImm (mk : Reg → Imm → Instr)
  /-- `add64 dst, imm`, the one row whose `dst` may be `r11` (R24). -/
  | addSp (mk : Reg → Imm → Instr)
  /-- `be`: an immediate that is a selector (R120, C6). -/
  | byteSwap (mk : Reg → SwapSize → Instr)
  | aluReg (mk : Reg → Reg → Instr)
  | load (mk : Reg → Reg → Off → Instr)
  | storeImm (mk : Reg → Off → Imm → Instr)
  | storeReg (mk : Reg → Off → Reg → Instr)
  | offOnly (mk : Off → Instr)
  | jcondImm (mk : Reg → Imm → Off → Instr)
  | jcondReg (mk : Reg → Reg → Off → Instr)
  | srcOnly (mk : Reg → Instr)
  | bare (i : Instr)

/-- The rows of class 1 in the table of R66. -/
def opcodesClass1 : List (BitVec 8 × Shape) := [
  (0x61, .load .ldxw),
  (0x69, .load .ldxh),
  (0x71, .load .ldxb),
  (0x79, .load .ldxdw)]

/-- The rows of class 2 in the table of R66. -/
def opcodesClass2 : List (BitVec 8 × Shape) := [
  (0x62, .storeImm .stw),
  (0x6A, .storeImm .sth),
  (0x72, .storeImm .stb),
  (0x7A, .storeImm .stdw)]

/-- The rows of class 3 in the table of R66. -/
def opcodesClass3 : List (BitVec 8 × Shape) := [
  (0x63, .storeReg .stxw),
  (0x6B, .storeReg .stxh),
  (0x73, .storeReg .stxb),
  (0x7B, .storeReg .stxdw)]

/-- The rows of class 4 in the table of R66. -/
def opcodesClass4 : List (BitVec 8 × Shape) := [
  (0x04, .aluImm .addImm),
  (0x0C, .aluReg .addReg),
  (0x14, .aluImm .subImm),
  (0x1C, .aluReg .subReg),
  (0x44, .aluImm .orImm),
  (0x4C, .aluReg .orReg),
  (0x54, .aluImm .andImm),
  (0x5C, .aluReg .andReg),
  (0x64, .aluImm .lshImm),
  (0x6C, .aluReg .lshReg),
  (0x74, .aluImm .rshImm),
  (0x7C, .aluReg .rshReg),
  (0xA4, .aluImm .xorImm),
  (0xAC, .aluReg .xorReg),
  (0xB4, .aluImm .movImm),
  (0xBC, .aluReg .movReg),
  (0xC4, .aluImm .ashImm),
  (0xCC, .aluReg .ashReg),
  (0xDC, .byteSwap .be)]

/-- The rows of class 6 in the table of R66. -/
def opcodesClass6 : List (BitVec 8 × Shape) := [
  (0x36, .aluImm .uhmul64Imm),
  (0x3E, .aluReg .uhmul64Reg),
  (0x46, .aluImm .udiv32Imm),
  (0x4E, .aluReg .udiv32Reg),
  (0x56, .aluImm .udiv64Imm),
  (0x5E, .aluReg .udiv64Reg),
  (0x66, .aluImm .urem32Imm),
  (0x6E, .aluReg .urem32Reg),
  (0x76, .aluImm .urem64Imm),
  (0x7E, .aluReg .urem64Reg),
  (0x86, .aluImm .lmul32Imm),
  (0x8E, .aluReg .lmul32Reg),
  (0x96, .aluImm .lmul64Imm),
  (0x9E, .aluReg .lmul64Reg),
  (0xB6, .aluImm .shmul64Imm),
  (0xBE, .aluReg .shmul64Reg),
  (0xC6, .aluImm .sdiv32Imm),
  (0xCE, .aluReg .sdiv32Reg),
  (0xD6, .aluImm .sdiv64Imm),
  (0xDE, .aluReg .sdiv64Reg),
  (0xE6, .aluImm .srem32Imm),
  (0xEE, .aluReg .srem32Reg),
  (0xF6, .aluImm .srem64Imm),
  (0xFE, .aluReg .srem64Reg)]

/-- The rows of class 7 in the table of R66. -/
def opcodesClass7 : List (BitVec 8 × Shape) := [
  (0x07, .addSp .add64Imm),
  (0x0F, .aluReg .add64Reg),
  (0x17, .aluImm .sub64Imm),
  (0x1F, .aluReg .sub64Reg),
  (0x47, .aluImm .or64Imm),
  (0x4F, .aluReg .or64Reg),
  (0x57, .aluImm .and64Imm),
  (0x5F, .aluReg .and64Reg),
  (0x67, .aluImm .lsh64Imm),
  (0x6F, .aluReg .lsh64Reg),
  (0x77, .aluImm .rsh64Imm),
  (0x7F, .aluReg .rsh64Reg),
  (0xA7, .aluImm .xor64Imm),
  (0xAF, .aluReg .xor64Reg),
  (0xB7, .aluImm .mov64Imm),
  (0xBF, .aluReg .mov64Reg),
  (0xC7, .aluImm .ash64Imm),
  (0xCF, .aluReg .ash64Reg),
  (0xF7, .aluImm .hor64)]

/-- The rows of class 5 in the table of R66. -/
def opcodesClass5 : List (BitVec 8 × Shape) := [
  (0x05, .offOnly .ja),
  (0x15, .jcondImm .jeqImm),
  (0x1D, .jcondReg .jeqReg),
  (0x25, .jcondImm .jgtImm),
  (0x2D, .jcondReg .jgtReg),
  (0x35, .jcondImm .jgeImm),
  (0x3D, .jcondReg .jgeReg),
  (0x45, .jcondImm .jsetImm),
  (0x4D, .jcondReg .jsetReg),
  (0x55, .jcondImm .jneImm),
  (0x5D, .jcondReg .jneReg),
  (0x65, .jcondImm .jsgtImm),
  (0x6D, .jcondReg .jsgtReg),
  (0x75, .jcondImm .jsgeImm),
  (0x7D, .jcondReg .jsgeReg),
  (0x85, .offOnly .call),
  (0x8D, .srcOnly .callx),
  (0x95, .bare .exit),
  (0xA5, .jcondImm .jltImm),
  (0xAD, .jcondReg .jltReg),
  (0xB5, .jcondImm .jleImm),
  (0xBD, .jcondReg .jleReg),
  (0xC5, .jcondImm .jsltImm),
  (0xCD, .jcondReg .jsltReg),
  (0xD5, .jcondImm .jsleImm),
  (0xDD, .jcondReg .jsleReg)]

/-- The 100 assigned opcode bytes (R66). Class 0 has none (R202). -/
def opcodeTable : List (BitVec 8 × Shape) :=
  opcodesClass1 ++ opcodesClass2 ++ opcodesClass3 ++ opcodesClass4 ++ opcodesClass6 ++ opcodesClass7 ++ opcodesClass5

/-- The row of an opcode byte: the whole byte is matched (R62), and a byte without a row is reserved (R67). -/
def shapeOf (opc : BitVec 8) : Option Shape := (opcodeTable.find? fun row => row.1 == opc).map (·.2)

/-- The register a 4-bit field names, if the instruction allows it there (R25, R26). -/
def fieldReg (allowed : Reg → Bool) (n : BitVec 4) : Except DecodeError Reg :=
  if h : n.toNat < 12 then
    if allowed ⟨n.toNat, h⟩ then .ok ⟨n.toNat, h⟩ else .error .badRegister
  else .error .badRegister

/-- The test on the unused fields, given whether they are all zero (R71): only under `STRICT_UNUSED_FIELDS`. -/
def unusedZero (strict zero : Bool) (i : Instr) : Except DecodeError Instr :=
  if strict && !zero then .error .unusedField else .ok i

/-- The selector of `be` (R120). -/
def selectorOf (imm : Imm) : Option SwapSize :=
  if imm = 16 then some .swap16 else if imm = 32 then some .swap32 else if imm = 64 then some .swap64 else none

/-- Steps (3) and (4) of R73 for a row's shape, in the order of R264: the register fields first, then the selector and
the unused fields. -/
def decodeShape (strict : Bool) (w : Word) : Shape → Except DecodeError Instr
  | .aluImm mk => do
    let dst ← fieldReg isGpr (dstField w)
    unusedZero strict (srcField w == 0 && offField w == 0) (mk dst (immField w))
  | .addSp mk => do
    let dst ← fieldReg isAddDst (dstField w)
    unusedZero strict (srcField w == 0 && offField w == 0) (mk dst (immField w))
  | .byteSwap mk => do
    let dst ← fieldReg isGpr (dstField w)
    match selectorOf (immField w) with
    | some size => unusedZero strict (srcField w == 0 && offField w == 0) (mk dst size)
    | none => .error .badSelector
  | .aluReg mk => do
    let dst ← fieldReg isGpr (dstField w)
    let src ← fieldReg isReadable (srcField w)
    unusedZero strict (offField w == 0 && immField w == 0) (mk dst src)
  | .load mk => do
    let dst ← fieldReg isGpr (dstField w)
    let src ← fieldReg isReadable (srcField w)
    unusedZero strict (immField w == 0) (mk dst src (offField w))
  | .storeImm mk => do
    let dst ← fieldReg isReadable (dstField w)
    unusedZero strict (srcField w == 0) (mk dst (offField w) (immField w))
  | .storeReg mk => do
    let dst ← fieldReg isReadable (dstField w)
    let src ← fieldReg isReadable (srcField w)
    unusedZero strict (immField w == 0) (mk dst (offField w) src)
  | .offOnly mk =>
    unusedZero strict (dstField w == 0 && srcField w == 0 && immField w == 0) (mk (offField w))
  | .jcondImm mk => do
    let dst ← fieldReg isGpr (dstField w)
    unusedZero strict (srcField w == 0) (mk dst (immField w) (offField w))
  | .jcondReg mk => do
    let dst ← fieldReg isGpr (dstField w)
    let src ← fieldReg isReadable (srcField w)
    unusedZero strict (immField w == 0) (mk dst src (offField w))
  | .srcOnly mk => do
    let src ← fieldReg isGpr (srcField w)
    unusedZero strict (dstField w == 0 && offField w == 0 && immField w == 0) (mk src)
  | .bare i =>
    unusedZero strict (dstField w == 0 && srcField w == 0 && offField w == 0 && immField w == 0) i

/-- The decoding procedure of R73: total, one word at a time. `strict` is `STRICT_UNUSED_FIELDS` (R71). -/
def decode (strict : Bool) (w : Word) : Except DecodeError Instr :=
  match shapeOf (opcField w) with
  | some shape => decodeShape strict w shape
  | none => .error .reservedOpcode

/-! ## The encoder -/

/-- A word from its fields (R60): `opc + dst * 2^8 + src * 2^12 + off * 2^16 + imm * 2^32`. -/
def mkWord (opc : BitVec 8) (dst src : BitVec 4) (off : Off) (imm : Imm) : Word := imm ++ off ++ src ++ dst ++ opc

/-- The field that holds a register number. -/
def regField (r : Reg) : BitVec 4 := BitVec.ofNat 4 r.val

/-- The immediate that stands for a selector of `be` (R120). -/
def SwapSize.selector : SwapSize → Imm
  | .swap16 => 16
  | .swap32 => 32
  | .swap64 => 64

/-- The opcode byte of an instruction (R66). -/
def Instr.opcode : Instr → BitVec 8
  | .ldxw .. => 0x61
  | .ldxh .. => 0x69
  | .ldxb .. => 0x71
  | .ldxdw .. => 0x79
  | .stw .. => 0x62
  | .sth .. => 0x6A
  | .stb .. => 0x72
  | .stdw .. => 0x7A
  | .stxw .. => 0x63
  | .stxh .. => 0x6B
  | .stxb .. => 0x73
  | .stxdw .. => 0x7B
  | .addImm .. => 0x04
  | .addReg .. => 0x0C
  | .subImm .. => 0x14
  | .subReg .. => 0x1C
  | .orImm .. => 0x44
  | .orReg .. => 0x4C
  | .andImm .. => 0x54
  | .andReg .. => 0x5C
  | .lshImm .. => 0x64
  | .lshReg .. => 0x6C
  | .rshImm .. => 0x74
  | .rshReg .. => 0x7C
  | .xorImm .. => 0xA4
  | .xorReg .. => 0xAC
  | .movImm .. => 0xB4
  | .movReg .. => 0xBC
  | .ashImm .. => 0xC4
  | .ashReg .. => 0xCC
  | .be .. => 0xDC
  | .uhmul64Imm .. => 0x36
  | .uhmul64Reg .. => 0x3E
  | .udiv32Imm .. => 0x46
  | .udiv32Reg .. => 0x4E
  | .udiv64Imm .. => 0x56
  | .udiv64Reg .. => 0x5E
  | .urem32Imm .. => 0x66
  | .urem32Reg .. => 0x6E
  | .urem64Imm .. => 0x76
  | .urem64Reg .. => 0x7E
  | .lmul32Imm .. => 0x86
  | .lmul32Reg .. => 0x8E
  | .lmul64Imm .. => 0x96
  | .lmul64Reg .. => 0x9E
  | .shmul64Imm .. => 0xB6
  | .shmul64Reg .. => 0xBE
  | .sdiv32Imm .. => 0xC6
  | .sdiv32Reg .. => 0xCE
  | .sdiv64Imm .. => 0xD6
  | .sdiv64Reg .. => 0xDE
  | .srem32Imm .. => 0xE6
  | .srem32Reg .. => 0xEE
  | .srem64Imm .. => 0xF6
  | .srem64Reg .. => 0xFE
  | .add64Imm .. => 0x07
  | .add64Reg .. => 0x0F
  | .sub64Imm .. => 0x17
  | .sub64Reg .. => 0x1F
  | .or64Imm .. => 0x47
  | .or64Reg .. => 0x4F
  | .and64Imm .. => 0x57
  | .and64Reg .. => 0x5F
  | .lsh64Imm .. => 0x67
  | .lsh64Reg .. => 0x6F
  | .rsh64Imm .. => 0x77
  | .rsh64Reg .. => 0x7F
  | .xor64Imm .. => 0xA7
  | .xor64Reg .. => 0xAF
  | .mov64Imm .. => 0xB7
  | .mov64Reg .. => 0xBF
  | .ash64Imm .. => 0xC7
  | .ash64Reg .. => 0xCF
  | .hor64 .. => 0xF7
  | .ja .. => 0x05
  | .jeqImm .. => 0x15
  | .jeqReg .. => 0x1D
  | .jgtImm .. => 0x25
  | .jgtReg .. => 0x2D
  | .jgeImm .. => 0x35
  | .jgeReg .. => 0x3D
  | .jsetImm .. => 0x45
  | .jsetReg .. => 0x4D
  | .jneImm .. => 0x55
  | .jneReg .. => 0x5D
  | .jsgtImm .. => 0x65
  | .jsgtReg .. => 0x6D
  | .jsgeImm .. => 0x75
  | .jsgeReg .. => 0x7D
  | .call .. => 0x85
  | .callx .. => 0x8D
  | .exit => 0x95
  | .jltImm .. => 0xA5
  | .jltReg .. => 0xAD
  | .jleImm .. => 0xB5
  | .jleReg .. => 0xBD
  | .jsltImm .. => 0xC5
  | .jsltReg .. => 0xCD
  | .jsleImm .. => 0xD5
  | .jsleReg .. => 0xDD

/-- The word of an instruction, every unused field zero (R66, R71). -/
def encode (i : Instr) : Word :=
  match i with
  | .ldxw dst src off => mkWord i.opcode (regField dst) (regField src) off 0
  | .ldxh dst src off => mkWord i.opcode (regField dst) (regField src) off 0
  | .ldxb dst src off => mkWord i.opcode (regField dst) (regField src) off 0
  | .ldxdw dst src off => mkWord i.opcode (regField dst) (regField src) off 0
  | .stw dst off imm => mkWord i.opcode (regField dst) 0 off imm
  | .sth dst off imm => mkWord i.opcode (regField dst) 0 off imm
  | .stb dst off imm => mkWord i.opcode (regField dst) 0 off imm
  | .stdw dst off imm => mkWord i.opcode (regField dst) 0 off imm
  | .stxw dst off src => mkWord i.opcode (regField dst) (regField src) off 0
  | .stxh dst off src => mkWord i.opcode (regField dst) (regField src) off 0
  | .stxb dst off src => mkWord i.opcode (regField dst) (regField src) off 0
  | .stxdw dst off src => mkWord i.opcode (regField dst) (regField src) off 0
  | .addImm dst imm => mkWord i.opcode (regField dst) 0 0 imm
  | .addReg dst src => mkWord i.opcode (regField dst) (regField src) 0 0
  | .subImm dst imm => mkWord i.opcode (regField dst) 0 0 imm
  | .subReg dst src => mkWord i.opcode (regField dst) (regField src) 0 0
  | .orImm dst imm => mkWord i.opcode (regField dst) 0 0 imm
  | .orReg dst src => mkWord i.opcode (regField dst) (regField src) 0 0
  | .andImm dst imm => mkWord i.opcode (regField dst) 0 0 imm
  | .andReg dst src => mkWord i.opcode (regField dst) (regField src) 0 0
  | .lshImm dst imm => mkWord i.opcode (regField dst) 0 0 imm
  | .lshReg dst src => mkWord i.opcode (regField dst) (regField src) 0 0
  | .rshImm dst imm => mkWord i.opcode (regField dst) 0 0 imm
  | .rshReg dst src => mkWord i.opcode (regField dst) (regField src) 0 0
  | .xorImm dst imm => mkWord i.opcode (regField dst) 0 0 imm
  | .xorReg dst src => mkWord i.opcode (regField dst) (regField src) 0 0
  | .movImm dst imm => mkWord i.opcode (regField dst) 0 0 imm
  | .movReg dst src => mkWord i.opcode (regField dst) (regField src) 0 0
  | .ashImm dst imm => mkWord i.opcode (regField dst) 0 0 imm
  | .ashReg dst src => mkWord i.opcode (regField dst) (regField src) 0 0
  | .be dst size => mkWord i.opcode (regField dst) 0 0 size.selector
  | .uhmul64Imm dst imm => mkWord i.opcode (regField dst) 0 0 imm
  | .uhmul64Reg dst src => mkWord i.opcode (regField dst) (regField src) 0 0
  | .udiv32Imm dst imm => mkWord i.opcode (regField dst) 0 0 imm
  | .udiv32Reg dst src => mkWord i.opcode (regField dst) (regField src) 0 0
  | .udiv64Imm dst imm => mkWord i.opcode (regField dst) 0 0 imm
  | .udiv64Reg dst src => mkWord i.opcode (regField dst) (regField src) 0 0
  | .urem32Imm dst imm => mkWord i.opcode (regField dst) 0 0 imm
  | .urem32Reg dst src => mkWord i.opcode (regField dst) (regField src) 0 0
  | .urem64Imm dst imm => mkWord i.opcode (regField dst) 0 0 imm
  | .urem64Reg dst src => mkWord i.opcode (regField dst) (regField src) 0 0
  | .lmul32Imm dst imm => mkWord i.opcode (regField dst) 0 0 imm
  | .lmul32Reg dst src => mkWord i.opcode (regField dst) (regField src) 0 0
  | .lmul64Imm dst imm => mkWord i.opcode (regField dst) 0 0 imm
  | .lmul64Reg dst src => mkWord i.opcode (regField dst) (regField src) 0 0
  | .shmul64Imm dst imm => mkWord i.opcode (regField dst) 0 0 imm
  | .shmul64Reg dst src => mkWord i.opcode (regField dst) (regField src) 0 0
  | .sdiv32Imm dst imm => mkWord i.opcode (regField dst) 0 0 imm
  | .sdiv32Reg dst src => mkWord i.opcode (regField dst) (regField src) 0 0
  | .sdiv64Imm dst imm => mkWord i.opcode (regField dst) 0 0 imm
  | .sdiv64Reg dst src => mkWord i.opcode (regField dst) (regField src) 0 0
  | .srem32Imm dst imm => mkWord i.opcode (regField dst) 0 0 imm
  | .srem32Reg dst src => mkWord i.opcode (regField dst) (regField src) 0 0
  | .srem64Imm dst imm => mkWord i.opcode (regField dst) 0 0 imm
  | .srem64Reg dst src => mkWord i.opcode (regField dst) (regField src) 0 0
  | .add64Imm dst imm => mkWord i.opcode (regField dst) 0 0 imm
  | .add64Reg dst src => mkWord i.opcode (regField dst) (regField src) 0 0
  | .sub64Imm dst imm => mkWord i.opcode (regField dst) 0 0 imm
  | .sub64Reg dst src => mkWord i.opcode (regField dst) (regField src) 0 0
  | .or64Imm dst imm => mkWord i.opcode (regField dst) 0 0 imm
  | .or64Reg dst src => mkWord i.opcode (regField dst) (regField src) 0 0
  | .and64Imm dst imm => mkWord i.opcode (regField dst) 0 0 imm
  | .and64Reg dst src => mkWord i.opcode (regField dst) (regField src) 0 0
  | .lsh64Imm dst imm => mkWord i.opcode (regField dst) 0 0 imm
  | .lsh64Reg dst src => mkWord i.opcode (regField dst) (regField src) 0 0
  | .rsh64Imm dst imm => mkWord i.opcode (regField dst) 0 0 imm
  | .rsh64Reg dst src => mkWord i.opcode (regField dst) (regField src) 0 0
  | .xor64Imm dst imm => mkWord i.opcode (regField dst) 0 0 imm
  | .xor64Reg dst src => mkWord i.opcode (regField dst) (regField src) 0 0
  | .mov64Imm dst imm => mkWord i.opcode (regField dst) 0 0 imm
  | .mov64Reg dst src => mkWord i.opcode (regField dst) (regField src) 0 0
  | .ash64Imm dst imm => mkWord i.opcode (regField dst) 0 0 imm
  | .ash64Reg dst src => mkWord i.opcode (regField dst) (regField src) 0 0
  | .hor64 dst imm => mkWord i.opcode (regField dst) 0 0 imm
  | .ja off => mkWord i.opcode 0 0 off 0
  | .jeqImm dst imm off => mkWord i.opcode (regField dst) 0 off imm
  | .jeqReg dst src off => mkWord i.opcode (regField dst) (regField src) off 0
  | .jgtImm dst imm off => mkWord i.opcode (regField dst) 0 off imm
  | .jgtReg dst src off => mkWord i.opcode (regField dst) (regField src) off 0
  | .jgeImm dst imm off => mkWord i.opcode (regField dst) 0 off imm
  | .jgeReg dst src off => mkWord i.opcode (regField dst) (regField src) off 0
  | .jsetImm dst imm off => mkWord i.opcode (regField dst) 0 off imm
  | .jsetReg dst src off => mkWord i.opcode (regField dst) (regField src) off 0
  | .jneImm dst imm off => mkWord i.opcode (regField dst) 0 off imm
  | .jneReg dst src off => mkWord i.opcode (regField dst) (regField src) off 0
  | .jsgtImm dst imm off => mkWord i.opcode (regField dst) 0 off imm
  | .jsgtReg dst src off => mkWord i.opcode (regField dst) (regField src) off 0
  | .jsgeImm dst imm off => mkWord i.opcode (regField dst) 0 off imm
  | .jsgeReg dst src off => mkWord i.opcode (regField dst) (regField src) off 0
  | .call off => mkWord i.opcode 0 0 off 0
  | .callx src => mkWord i.opcode 0 (regField src) 0 0
  | .exit => mkWord i.opcode 0 0 0 0
  | .jltImm dst imm off => mkWord i.opcode (regField dst) 0 off imm
  | .jltReg dst src off => mkWord i.opcode (regField dst) (regField src) off 0
  | .jleImm dst imm off => mkWord i.opcode (regField dst) 0 off imm
  | .jleReg dst src off => mkWord i.opcode (regField dst) (regField src) off 0
  | .jsltImm dst imm off => mkWord i.opcode (regField dst) 0 off imm
  | .jsltReg dst src off => mkWord i.opcode (regField dst) (regField src) off 0
  | .jsleImm dst imm off => mkWord i.opcode (regField dst) 0 off imm
  | .jsleReg dst src off => mkWord i.opcode (regField dst) (regField src) off 0

/-! ## The byte image of a word (20_memory.md R55) -/

/-- The eight bytes of a word, lowest address first. -/
def bytesOfWord (w : Word) : List Byte := (List.range 8).map fun k => w.extractLsb' (8 * k) 8

/-- The number whose bytes are given, the first the least significant. -/
def natOfBytes : List Byte → Nat
  | [] => 0
  | b :: bs => b.toNat + 256 * natOfBytes bs

/-- The words of a program's byte image: slot `i` is the eight bytes at offset `8 * i`. An image whose length is no
multiple of 8 is no list of words. -/
def wordsOfImage : List Byte → Option (List Word)
  | [] => some []
  | a :: b :: c :: d :: e :: f :: g :: h :: rest =>
    (wordsOfImage rest).map (BitVec.ofNat 64 (natOfBytes [a, b, c, d, e, f, g, h]) :: ·)
  | _ => none

/-- The instruction of an image of exactly one slot, under the default `STRICT_UNUSED_FIELDS = true` (log 12). -/
def decodeBytes (image : List Byte) : Option Instr :=
  match wordsOfImage image with
  | some [w] => (decode true w).toOption
  | _ => none

/-- A table row's word: its low `nbits` bits, every bit above them zero. -/
def tableWord (nbits w : Nat) : Word := BitVec.ofNat 64 (w % 2 ^ nbits)

/-- The instruction the decoder reads from an instruction whose bits are `w`, laid out as the eight bytes of R55. -/
def decodeTableWord (nbits w : Nat) : Option Instr := decodeBytes (bytesOfWord (tableWord nbits w))

end Sys2Proof
end

