-- ==== Sys2Proof/Config.lean ====
section
/-! DEFINITION. The parameters of the machine (00_scope.md R5, 10_state.md R36) as plain data, and the one thing left open
without a value: the register conventions a platform may attach to calls (92_eei_decisions.md D21). -/
namespace Sys2Proof

/-- What a register is at some moment: a 64-bit value, or "unwritten", the state of a register that the launch registers
leave without a value (R5 `InitRegs`, R34, R35). Every register of `State.reset` holds a value. -/
inductive RegCell where
  | unwritten
  | holds (v : Word)
  deriving DecidableEq, Repr, Inhabited

/-- The register file `x[0..11]` (R21, R33). -/
abbrev RegFile := Vector RegCell 12

/-- A half-open slot range `[start, stop)`: one function of the text section (R5, R31). -/
structure FnRange where
  start : Nat
  stop : Nat
  deriving DecidableEq, Repr

/-- A region of the memory map, `(base, len, writable)` (R40). -/
structure Region where
  base : Nat
  len : Nat
  writable : Bool
  deriving DecidableEq, Repr

/-- How a 32-bit immediate, or the first factor of `shmul64`, is widened: the values of the three reading switches
`IMM64_LOGIC_EXT`, `STDW_IMM_EXT`, `SHMUL64_DST_EXT` (R5). -/
inductive Ext where
  | zext
  | sext
  deriving DecidableEq, Repr

/-- Which hooks `call`, `callx` and `exit` apply to the registers (R5 `OnCall`, `OnReturn`): the default, which leaves
the registers untouched and saves nothing, or a platform's convention, about which nothing is known (log 8). -/
inductive Hooks where
  | identity
  | platform
  deriving DecidableEq, Repr

/-- What a frame keeps of the caller's registers: "whatever `OnCall` chose to save (nothing by default)" (R30). -/
abbrev Saved := List RegCell

/-- What a platform's convention saves at a call: `save(x)` of R247, left open (log 8). -/
opaque Config.platformSave : RegFile → Saved

/-- What a platform's convention makes of the registers at a call: `OnCall` of R5, left open (log 8). -/
opaque Config.platformOnCall : RegFile → RegFile

/-- What a platform's convention makes of the registers at a return: `OnReturn` of R249, left open (log 8). -/
opaque Config.platformOnReturn : RegFile → Saved → RegFile

/-- The parameters of the step (R5, R36). No step changes them. -/
structure Params where
  /-- `Text`: one word per slot. -/
  text : List Word
  /-- `Functions`: the ranges that partition the slots. -/
  functions : List FnRange
  /-- `ENTRY`: the slot where execution starts. -/
  entry : Nat
  /-- `TEXT_BASE`: the byte address `callx` sees for slot 0. -/
  textBase : Word
  /-- `MemMap`: the mapped regions of the data memory. -/
  memMap : List Region
  /-- `MAX_CALL_DEPTH`: how many calls may be nested. -/
  maxCallDepth : Nat
  /-- `OnCall`, `OnReturn`. -/
  hooks : Hooks
  /-- `IMM64_LOGIC_EXT`. -/
  imm64LogicExt : Ext
  /-- `STDW_IMM_EXT`. -/
  stdwImmExt : Ext
  /-- `SHMUL64_DST_EXT`. -/
  shmul64DstExt : Ext
  /-- `STRICT_UNUSED_FIELDS`. -/
  strictUnusedFields : Bool
  deriving DecidableEq, Repr

/-- The defaults of R5 where it gives one (`ENTRY`, hooks, the four switches), nothing supplied for `Text`, `Functions`
and `MemMap` (log 4, log 5), and for the two open numbers the values of the spec's own worked programs
(95_test_vectors.md; DESIGN CHOICE, unsafe, log 6 and log 7). -/
def Params.initial : Params where
  text := []
  functions := []
  entry := 0
  textBase := 0x100000000
  memMap := []
  maxCallDepth := 4
  hooks := .identity
  imm64LogicExt := .zext
  stdwImmExt := .zext
  shmul64DstExt := .zext
  strictUnusedFields := true

/-- What the host supplies before the first step (R291): the parameters, `InitMem` as the list of the bytes it sets
(log 13) and `InitRegs`. -/
structure LaunchInput where
  params : Params
  initMem : List (Nat × Byte)
  initRegs : RegFile
  deriving DecidableEq, Repr

end Sys2Proof
end

