-- ==== Sys2Proof/Machine/Operands.lean ====
section
/-! DEFINITION. The pseudocode primitives of 00_scope.md R7 and every operand form: truncation and extension, how the
immediate enters each group (30_encoding.md R69), shift counts, byte swap, exact integer products and quotients, the
effective address and the target location. -/
namespace Sys2Proof.Machine

/-! ## Widths (R7, R9) -/

/-- `trunc_32(v)`. -/
def trunc32 (v : Word) : BitVec 32 := v.setWidth 32

/-- `zext_64(v)` of a 32-bit value. -/
def zext64 (v : BitVec 32) : Word := v.setWidth 64

/-- `sext_64(v)` of a 32-bit value. -/
def sext64 (v : BitVec 32) : Word := v.signExtend 64

/-- A 32-bit value widened as a reading switch says (R131, R210). -/
def extend64 (e : Ext) (v : BitVec 32) : Word :=
  match e with
  | .zext => zext64 v
  | .sext => sext64 v

/-! ## Shifts (R11): the count is taken modulo the width -/

/-- `lsl_32(v, k[4:0])`. -/
def lsl32 (v k : BitVec 32) : BitVec 32 := v <<< (k.toNat % 32)

/-- `lsr_32(v, k[4:0])`. -/
def lsr32 (v k : BitVec 32) : BitVec 32 := v >>> (k.toNat % 32)

/-- `asr_32(v, k[4:0])`. -/
def asr32 (v k : BitVec 32) : BitVec 32 := v.sshiftRight (k.toNat % 32)

/-- `lsl_64(v, k mod 64)`; the count is a `u32` (R11), of which the low six bits matter. -/
def lsl64 (v : Word) (k : BitVec 32) : Word := v <<< (k.toNat % 64)

/-- `lsr_64(v, k mod 64)`. -/
def lsr64 (v : Word) (k : BitVec 32) : Word := v >>> (k.toNat % 64)

/-- `asr_64(v, k mod 64)`. -/
def asr64 (v : Word) (k : BitVec 32) : Word := v.sshiftRight (k.toNat % 64)

/-! ## Byte swap (R7, R120) -/

/-- `bswap_16`. -/
def bswap16 (v : BitVec 16) : BitVec 16 := v.extractLsb' 0 8 ++ v.extractLsb' 8 8

/-- `bswap_32`: the reversed low half above the reversed high half. -/
def bswap32 (v : BitVec 32) : BitVec 32 := bswap16 (v.extractLsb' 0 16) ++ bswap16 (v.extractLsb' 16 16)

/-- `bswap_64`. -/
def bswap64 (v : Word) : Word := bswap32 (v.extractLsb' 0 32) ++ bswap32 (v.extractLsb' 32 32)

/-- `zext_64(bswap_N(trunc_N(v)))` for the three selectors of `be` (R120). -/
def byteSwap (size : SwapSize) (v : Word) : Word :=
  match size with
  | .swap16 => (bswap16 (v.setWidth 16)).setWidth 64
  | .swap32 => (bswap32 (v.setWidth 32)).setWidth 64
  | .swap64 => bswap64 v

/-! ## Products (R164, R178): exact, then narrowed -/

/-- `p[127:64]` of the exact product of two unsigned numbers (R164, R165). -/
def highProduct (a b : Nat) : Word := BitVec.ofNat 64 (a * b / 2 ^ 64)

/-- `floor(p / 2^64) mod 2^64` of the exact product of two integers (R178, R179). -/
def highProductInt (a b : Int) : Word := BitVec.ofInt 64 (Int.fdiv (a * b) (2 ^ 64))

/-- The first factor `A` of `shmul64`: `x[dst]` unsigned or signed, as `SHMUL64_DST_EXT` says (R178). -/
def shmulFactor (e : Ext) (v : Word) : Int :=
  match e with
  | .zext => v.toNat
  | .sext => v.toInt

/-! ## Quotients and remainders (R12, R161, R162) -/

/-- The two panics of a division, before the slot number is known. -/
inductive DivisionPanic where
  | byZero
  | negativeOverflow
  deriving DecidableEq, Repr

/-- `floor(a / d)` of two unsigned numbers, or the panic of a zero divisor (R161). -/
def unsignedQuotient (a d : Nat) : Except DivisionPanic Nat :=
  if d = 0 then .error .byZero else .ok (a / d)

/-- `a mod d` of two unsigned numbers, or the panic of a zero divisor (R161). -/
def unsignedRemainder (a d : Nat) : Except DivisionPanic Nat :=
  if d = 0 then .error .byZero else .ok (a % d)

/-- `tdiv(a, d)`, or the panic of a zero divisor (R161), or that of `-2^(width-1)` divided by -1 (R162). -/
def signedQuotient (width : Nat) (a d : Int) : Except DivisionPanic Int :=
  if d = 0 then .error .byZero
  else if d = -1 ∧ a = -2 ^ (width - 1) then .error .negativeOverflow
  else .ok (Int.tdiv a d)

/-- `trem(a, d)`, with the same two panics (R162: the remainder panics where the quotient overflows). -/
def signedRemainder (width : Nat) (a d : Int) : Except DivisionPanic Int :=
  if d = 0 then .error .byZero
  else if d = -1 ∧ a = -2 ^ (width - 1) then .error .negativeOverflow
  else .ok (Int.tmod a d)

/-- A 32-bit unsigned result as a register value, zero-extended (R160). -/
def narrow32 (n : Nat) : Word := zext64 (BitVec.ofNat 32 n)

/-- A 32-bit signed result as a register value: its 32-bit pattern, zero-extended (R160). -/
def narrowInt32 (n : Int) : Word := zext64 (BitVec.ofInt 32 n)

/-! ## Addresses and targets -/

/-- The widths of the loads and stores (R50). -/
inductive Width where
  | byte
  | half
  | word
  | double
  deriving DecidableEq, Repr

/-- How many bytes an access moves (R50). -/
def Width.bytes : Width → Nat
  | .byte => 1
  | .half => 2
  | .word => 4
  | .double => 8

/-- The effective address: base plus the signed offset, modulo `2^64` (R201). -/
def effectiveAddress (base : Word) (off : Off) : Word := base + off.signExtend 64

/-- The target location `pc + 1 + sgn_16(off)`, a mathematical integer (R221). -/
def targetSlot (pc : Nat) (off : Off) : Int := (pc : Int) + 1 + off.toInt

/-- The slot of a byte address that `callx` takes: exact, and inside a text of `n` slots (R248). -/
def slotOfAddress (textBase : Word) (n : Nat) (a : Word) : Option Nat :=
  if a.toNat < textBase.toNat ∨ (a.toNat - textBase.toNat) % 8 ≠ 0 ∨ n ≤ (a.toNat - textBase.toNat) / 8 then none
  else some ((a.toNat - textBase.toNat) / 8)

end Sys2Proof.Machine
end

