-- ==== Sys2Proof/Machine/State.lean ====
section
/-! DEFINITION. The state of the machine, `(x[0..11], pc, cs, mem, status)` (10_state.md R33), with the read-only
parameters of the step beside it (R36, log 1); the panics (60_exceptions.md R260); the reasons a step does not answer a
state; the state after reset. -/
namespace Sys2Proof.Machine

/-- Whether an access was a load or a store: part of what `MemoryOutOfBounds` records (R46, R260). -/
inductive Access where
  | load
  | store
  deriving DecidableEq, Repr

/-- The target that `TargetOutOfBounds` records: a slot number, which may lie below or above the text, or for `callx` the
byte address (R260). -/
inductive Target where
  | slot (t : Int)
  | address (a : Word)
  deriving DecidableEq, Repr

/-- The eight events that end a run abnormally, with what each records (R260). -/
inductive Panic where
  /-- "Division by zero" (R161). -/
  | divisionByZero (pc : Nat)
  /-- "Negative overflow" (R162). -/
  | negativeOverflow (pc : Nat)
  /-- "Out of bounds", of a data access: effective address, size in bytes, load or store (R46). -/
  | memoryOutOfBounds (pc : Nat) (ea : Word) (size : Nat) (access : Access)
  /-- "Access violation": effective address, size in bytes (R47). -/
  | accessViolation (pc : Nat) (ea : Word) (size : Nat)
  /-- "Out of bounds", of a control transfer or a sequential advance (R222). -/
  | targetOutOfBounds (pc : Nat) (target : Target)
  /-- "Stack overflow" (R247, R248). -/
  | stackOverflow (pc : Nat)
  /-- A reserved opcode, a bad `be` selector, a non-zero unused field (R72). -/
  | invalidInstruction (pc : Nat) (word : Word)
  /-- A register number that R26 does not allow (R72). -/
  | invalidRegister (pc : Nat) (word : Word)
  deriving DecidableEq, Repr

/-- The run status (R33). -/
inductive Status where
  | running
  | halted
  | faulted (p : Panic)
  deriving DecidableEq, Repr

/-- A frame of the call stack: the slot to return to, and what `OnCall` chose to save (R30). -/
structure Frame where
  ret : Nat
  saved : Saved
  deriving DecidableEq, Repr

/-- The data memory: the addresses whose byte is not zero, rising. An address that is not listed reads as zero (log 5);
whether an address is mapped is `Params.memMap`'s to say (R32, R40). -/
abbrev Memory := List Host.Cell

/-- The complete state (R33) and the parameters (R36). -/
structure State where
  /-- `x[0..11]` (R21). -/
  regs : RegFile
  /-- The slot number of the current instruction (R27). -/
  pc : Nat
  /-- The call stack, newest frame last (R30). -/
  cs : List Frame
  /-- The data memory (R32). -/
  mem : Memory
  /-- The run status (R33). -/
  status : Status
  /-- The parameters of the step, which no step changes (R36). -/
  params : Params
  deriving DecidableEq, Repr

/-- Why a step stops with a fault. -/
inductive Fault where
  /-- Raised by `step` at a state whose status is `Faulted(p)`: such a state has no successor (R33, R294). Safe: nothing
  is claimed to happen. (The panic itself is the step that led here, a next state: log 9.) -/
  | stopped (p : Panic)
  deriving DecidableEq, Repr

/-- Why a step has no meaning to give. -/
inductive Refusal where
  /-- Answered by `exec` for an instruction the model does not reach. Safe. (No arm answers it.) -/
  | notModelled (mnemonic : String)
  /-- Answered when an instruction reads a register that holds no value, as R266 asks; no run from `State.reset` meets it
  under the identity hooks (log 3). Safe. -/
  | unwrittenRegisterRead (pc : Nat) (r : Reg)
  /-- Answered by `step` at a state whose status is `Halted`, which has no successor and is no fault (R33, R279, log 9).
  Safe. -/
  | halted
  /-- Answered by `step` when `pc` names no slot of the text: excluded by the launch conditions (R291, R294), met at
  `State.reset`, where no program is supplied (log 4, log 10). Safe. -/
  | pcOutsideText (pc : Nat)
  /-- Answered when no range of `Functions` contains `pc`: excluded by the launch conditions (R291, log 10). Safe. -/
  | pcOutsideFunctions (pc : Nat)
  deriving DecidableEq, Repr

/-- The state of R34 before the host has supplied a program, a memory map or register values: `pc = ENTRY`, call stack
empty, memory with nothing listed, status `Running`; every register holds 0 (DESIGN CHOICE, unsafe, log 2; the spec gives
no value). -/
def State.reset : State where
  regs := Vector.replicate 12 (.holds 0)
  pc := Params.initial.entry
  cs := []
  mem := []
  status := .running
  params := Params.initial

end Sys2Proof.Machine
end

