-- ==== Sys2Proof/Machine/Ops.lean ====
section
/-! DEFINITION. The named operations every meaning is built from: registers, the data memory (20_memory.md), functions and
the sequential advance (44_control_flow.md R222), raising a panic (60_exceptions.md R262), jumps, calls and returns. -/
namespace Sys2Proof.Machine

/-- The three outcomes of a step of this machine. -/
abbrev Out := Host.Outcome State Fault Refusal

/-! ## Panics -/

/-- `raise P` (R262): nothing is written, `pc` keeps the slot of the raising instruction, the status becomes
`Faulted(P)`. Taking a panic is this one operation; there is no return from it (R268). -/
def raise (s : State) (p : Panic) : Out := .next { s with status := .faulted p }

/-! ## Registers -/

/-- What register `r` is (R21). -/
def State.reg (s : State) (r : Reg) : RegCell := s.regs[r.val]

/-- `x[r] <- v`: all 64 bits (R7, R22). -/
def State.setReg (s : State) (r : Reg) (v : Word) : State := { s with regs := s.regs.set r.val (.holds v) r.isLt }

/-- Read register `r` and go on with its value; a register that holds no value refuses the step (R266, R294). -/
def withReg (s : State) (r : Reg) (k : Word → Out) : Out :=
  match s.reg r with
  | .holds v => k v
  | .unwritten => .refused (.unwrittenRegisterRead s.pc r)

/-! ## Data memory -/

/-- Whether the region contains the address (R40). -/
def inRegion (r : Region) (a : Nat) : Bool := decide (r.base ≤ a) && decide (a < r.base + r.len)

/-- Whether the address is mapped (R40). -/
def mapped (memMap : List Region) (a : Nat) : Bool := memMap.any fun r => inRegion r a

/-- Whether the address lies in a region that is not writable (R47). -/
def readOnly (memMap : List Region) (a : Nat) : Bool := memMap.any fun r => inRegion r a && !r.writable

/-- Whether all `n` bytes from `a` are mapped and below `2^64` (R40, R46): an access does not wrap. -/
def accessible (memMap : List Region) (a n : Nat) : Bool :=
  decide (a + n ≤ 2 ^ 64) && (List.range n).all fun k => mapped memMap (a + k)

/-- Whether one of the `n` bytes from `a` lies in a region that is not writable (R47). -/
def touchesReadOnly (memMap : List Region) (a n : Nat) : Bool :=
  (List.range n).any fun k => readOnly memMap (a + k)

/-- The byte an address that is not listed reads as (log 5). -/
def unlistedByte : Byte := 0

/-- The byte at an address. -/
def readByte : Memory → Nat → Byte
  | [], _ => unlistedByte
  | (a', b) :: m, a => if a = a' then b else readByte m a

/-- The memory with the byte at one address replaced, in canonical form. -/
def writeByte : Memory → Nat → Byte → Memory
  | [], a, b => if b = unlistedByte then [] else [(a, b)]
  | (a', b') :: m, a, b =>
    if a < a' then (if b = unlistedByte then (a', b') :: m else (a, b) :: (a', b') :: m)
    else if a = a' then (if b = unlistedByte then m else (a, b) :: m)
    else (a', b') :: writeByte m a b

/-- The canonical form: addresses strictly rising, no entry equal to what an unlisted address reads as. -/
def Memory.wf : Memory → Bool
  | [] => true
  | (a, b) :: m => b != unlistedByte && m.all (fun c => decide (a < c.1)) && Memory.wf m

/-- The number whose `n` bytes lie from address `a` up, the byte at the lowest address the least significant (R41,
R43). -/
def readBytes (m : Memory) (a : Nat) : Nat → Nat
  | 0 => 0
  | n + 1 => (readByte m a).toNat + 256 * readBytes m (a + 1) n

/-- The low `n` bytes of the number `v` written from address `a` up, the least significant first (R42, R43). -/
def writeBytes (m : Memory) (a : Nat) (v : Nat) : Nat → Memory
  | 0 => m
  | n + 1 => writeBytes (writeByte m a (BitVec.ofNat 8 v)) (a + 1) (v / 256) n

/-- `MemRead(a, n)` (R41). -/
def memRead (s : State) (a : Word) (n : Nat) : Except Panic Nat :=
  if accessible s.params.memMap a.toNat n then .ok (readBytes s.mem a.toNat n)
  else .error (.memoryOutOfBounds s.pc a n .load)

/-- `MemWrite(a, n, v)` (R42): the memory after it. Out of bounds is tested before the access violation (R48). -/
def memWrite (s : State) (a : Word) (n : Nat) (v : Nat) : Except Panic Memory :=
  if !accessible s.params.memMap a.toNat n then .error (.memoryOutOfBounds s.pc a n .store)
  else if touchesReadOnly s.params.memMap a.toNat n then .error (.accessViolation s.pc a n)
  else .ok (writeBytes s.mem a.toNat v n)

/-! ## Functions and the sequential advance -/

/-- Whether the slot lies in the range (R31). -/
def inRange (f : FnRange) (slot : Nat) : Bool := decide (f.start ≤ slot) && decide (slot < f.stop)

/-- `fn(i)`: the function containing slot `i` (R31). -/
def fnAt (p : Params) (slot : Nat) : Option FnRange := p.functions.find? fun f => inRange f slot

/-- Go on with the current function `fn(pc)`; without one there is no launch state to have come from (R291, log 10). -/
def withFn (s : State) (k : FnRange → Out) : Out :=
  match fnAt s.params s.pc with
  | some f => k f
  | none => .refused (.pcOutsideFunctions s.pc)

/-- Commit the writes of `u` and advance to `pc + 1` (R28), unless the instruction is the last of its function: then
nothing is written and the run faults (R222 (c), R264 (3)). -/
def advance (s u : State) : Out :=
  withFn s fun f =>
    if s.pc + 1 < f.stop then .next { u with pc := s.pc + 1 }
    else raise s (.targetOutOfBounds s.pc (.slot (s.pc + 1)))

/-! ## Arithmetic instructions: read, compute, write, advance -/

/-- An instruction that reads `x[dst]`, computes and writes `x[dst]` (R100, R130, R160). -/
def updateReg (f : Word → Word) (dst : Reg) (s : State) : Out :=
  withReg s dst fun a => advance s (s.setReg dst (f a))

/-- An instruction that reads `x[dst]` and `x[src]`, computes and writes `x[dst]`. -/
def updateReg2 (f : Word → Word → Word) (dst src : Reg) (s : State) : Out :=
  withReg s dst fun a => withReg s src fun b => advance s (s.setReg dst (f a b))

/-- An instruction that writes `x[dst]` without reading it (R116, R146). -/
def loadReg (v : Word) (dst : Reg) (s : State) : Out := advance s (s.setReg dst v)

/-- An instruction that reads `x[src]` only and writes `x[dst]` (R117, R147). -/
def copyReg (f : Word → Word) (dst src : Reg) (s : State) : Out :=
  withReg s src fun b => advance s (s.setReg dst (f b))

/-- The panic of a division at a slot (R161, R162). -/
def DivisionPanic.panicAt (pc : Nat) : DivisionPanic → Panic
  | .byZero => .divisionByZero pc
  | .negativeOverflow => .negativeOverflow pc

/-- Write a quotient or remainder to `x[dst]` and advance, or raise its panic, which is tested before the advance
(R160, R264). -/
def finishDivision (r : Except DivisionPanic Word) (dst : Reg) (s : State) : Out :=
  match r with
  | .ok v => advance s (s.setReg dst v)
  | .error p => raise s (p.panicAt s.pc)

/-- A quotient or remainder of `x[dst]` by an immediate. -/
def divideReg (f : Word → Except DivisionPanic Word) (dst : Reg) (s : State) : Out :=
  withReg s dst fun a => finishDivision (f a) dst s

/-- A quotient or remainder of `x[dst]` by `x[src]`. -/
def divideReg2 (f : Word → Word → Except DivisionPanic Word) (dst src : Reg) (s : State) : Out :=
  withReg s dst fun a => withReg s src fun b => finishDivision (f a b) dst s

/-! ## Loads and stores (43_memory_ops.md R200, R201) -/

/-- A load: base register, effective address, `MemRead`, zero-extended result (R200, R203). -/
def load (w : Width) (dst src : Reg) (off : Off) (s : State) : Out :=
  withReg s src fun base =>
    match memRead s (effectiveAddress base off) w.bytes with
    | .ok v => advance s (s.setReg dst (BitVec.ofNat 64 v))
    | .error p => raise s p

/-- The end of a store: `MemWrite` at the effective address, then the advance; the memory is committed only if both
pass (R200, R264). -/
def finishStore (w : Width) (base : Word) (off : Off) (v : Nat) (s : State) : Out :=
  match memWrite s (effectiveAddress base off) w.bytes v with
  | .ok m => advance s { s with mem := m }
  | .error p => raise s p

/-- A store of an immediate: `imm` is the value before it is cut to the width (R207 to R210). -/
def storeImm (w : Width) (dst : Reg) (off : Off) (v : Word) (s : State) : Out :=
  withReg s dst fun base => finishStore w base off v.toNat s

/-- A store of a register: the low bytes of `x[src]` (R211 to R214). -/
def storeReg (w : Width) (dst : Reg) (off : Off) (src : Reg) (s : State) : Out :=
  withReg s dst fun base => withReg s src fun v => finishStore w base off v.toNat s

/-! ## Jumps, calls, return -/

/-- A jump to a target inside the current function, or `TargetOutOfBounds` (R222 (a)). -/
def jump (off : Off) (s : State) : Out :=
  withFn s fun f =>
    let t := targetSlot s.pc off
    if t < f.start ∨ (f.stop : Int) ≤ t then raise s (.targetOutOfBounds s.pc (.slot t))
    else .next { s with pc := t.toNat }

/-- The template of the conditional jumps (R223): the target is tested whether or not the condition holds. -/
def jumpIf (c : Bool) (off : Off) (s : State) : Out :=
  withFn s fun f =>
    let t := targetSlot s.pc off
    if t < f.start ∨ (f.stop : Int) ≤ t then raise s (.targetOutOfBounds s.pc (.slot t))
    else if c then .next { s with pc := t.toNat }
    else if f.stop ≤ s.pc + 1 then raise s (.targetOutOfBounds s.pc (.slot (s.pc + 1)))
    else .next { s with pc := s.pc + 1 }

/-- A conditional jump on `x[dst]` and the immediate, sign-extended to 64 bits (R223). -/
def jumpIfImm (c : Word → Word → Bool) (dst : Reg) (imm : Imm) (off : Off) (s : State) : Out :=
  withReg s dst fun a => jumpIf (c a (sext64 imm)) off s

/-- A conditional jump on `x[dst]` and `x[src]`. -/
def jumpIfReg (c : Word → Word → Bool) (dst src : Reg) (off : Off) (s : State) : Out :=
  withReg s dst fun a => withReg s src fun b => jumpIf (c a b) off s

/-- `save(x)` of R247. -/
def saveRegs (h : Hooks) (x : RegFile) : Saved :=
  match h with
  | .identity => []
  | .platform => Config.platformSave x

/-- `OnCall(x)` of R247. -/
def onCall (h : Hooks) (x : RegFile) : RegFile :=
  match h with
  | .identity => x
  | .platform => Config.platformOnCall x

/-- `OnReturn(x, saved)` of R249. -/
def onReturn (h : Hooks) (x : RegFile) (saved : Saved) : RegFile :=
  match h with
  | .identity => x
  | .platform => Config.platformOnReturn x saved

/-- A call (R247, R248): the depth, then the target (`none` where it is outside the text, with what the panic reports),
then the return location; then the frame is pushed and control goes to the target. -/
def callTo (target : Option Nat) (reported : Target) (s : State) : Out :=
  if s.params.maxCallDepth ≤ s.cs.length then raise s (.stackOverflow s.pc)
  else
    match target with
    | none => raise s (.targetOutOfBounds s.pc reported)
    | some t =>
      withFn s fun f =>
        if f.stop ≤ s.pc + 1 then raise s (.targetOutOfBounds s.pc (.slot (s.pc + 1)))
        else
          .next { s with
            cs := s.cs ++ [⟨s.pc + 1, saveRegs s.params.hooks s.regs⟩]
            regs := onCall s.params.hooks s.regs
            pc := t }

/-- A target slot if it lies inside a text of `n` slots (R222 (b)). -/
def slotInText (n : Nat) (t : Int) : Option Nat := if t < 0 ∨ (n : Int) ≤ t then none else some t.toNat

/-- Return from a call, or halt when no call is active (R249). -/
def returnOrHalt (s : State) : Out :=
  match s.cs.getLast? with
  | none => .next { s with status := .halted }
  | some f =>
    .next { s with
      cs := s.cs.dropLast
      regs := onReturn s.params.hooks s.regs f.saved
      pc := f.ret }

/-! ## Fetch and invalid words -/

/-- `Text[pc]` (R294 (1), R296). -/
def fetch (s : State) : Option Word := s.params.text[s.pc]?

/-- The panic of an invalid word (R72, R264 (1)). -/
def invalidWordPanic (pc : Nat) (w : Word) : DecodeError → Panic
  | .badRegister => .invalidRegister pc w
  | .reservedOpcode => .invalidInstruction pc w
  | .badSelector => .invalidInstruction pc w
  | .unusedField => .invalidInstruction pc w

/-- The word of `exit` (R66), which fills the slots that `placeWord` adds. -/
def exitWord : Word := 0x95

/-- The machine loaded so that its next step fetches `w`: `w` stands in slot `pc`, the status is `Running`. Where the
text has no slot `pc`, it is lengthened to `pc + 2` slots, the last an `exit`, and `Functions` is the default of R5, one
function; so too where no function contains `pc` (log 4). -/
def placeWord (s : State) (w : Word) : State :=
  let p := s.params
  let text := if s.pc < p.text.length then p.text.set s.pc w
    else p.text ++ List.replicate (s.pc - p.text.length) exitWord ++ [w, exitWord]
  let functions := if s.pc < p.text.length && (fnAt p s.pc).isSome then p.functions else [⟨0, text.length⟩]
  { s with status := .running, params := { p with text := text, functions := functions } }

end Sys2Proof.Machine
end

