-- ==== Sys2Proof/Machine/Alu32.lean ====
section
/-! DEFINITION. The meanings of class 4, 32-bit arithmetic and logic (40_alu32.md). Every result is 32 bits zero-extended,
but for the two `mov` forms, which sign-extend (R100); nothing here raises a panic but the sequential advance (R101). -/
namespace Sys2Proof.Machine

/-- `add dst, imm`, `0x04` (R102). -/
def execAddImm (dst : Reg) (imm : Imm) (s : State) : Out :=
  updateReg (fun a => zext64 (trunc32 a + imm)) dst s

/-- `add dst, src`, `0x0C` (R103). -/
def execAddReg (dst : Reg) (src : Reg) (s : State) : Out :=
  updateReg2 (fun a b => zext64 (trunc32 a + trunc32 b)) dst src s

/-- `sub dst, imm`, `0x14` (R104): the immediate is the minuend. -/
def execSubImm (dst : Reg) (imm : Imm) (s : State) : Out :=
  updateReg (fun a => zext64 (imm - trunc32 a)) dst s

/-- `sub dst, src`, `0x1C` (R105): `dst` is the minuend. -/
def execSubReg (dst : Reg) (src : Reg) (s : State) : Out :=
  updateReg2 (fun a b => zext64 (trunc32 a - trunc32 b)) dst src s

/-- `or dst, imm`, `0x44` (R106). -/
def execOrImm (dst : Reg) (imm : Imm) (s : State) : Out :=
  updateReg (fun a => zext64 (trunc32 a ||| imm)) dst s

/-- `or dst, src`, `0x4C` (R107). -/
def execOrReg (dst : Reg) (src : Reg) (s : State) : Out :=
  updateReg2 (fun a b => zext64 (trunc32 a ||| trunc32 b)) dst src s

/-- `and dst, imm`, `0x54` (R108). -/
def execAndImm (dst : Reg) (imm : Imm) (s : State) : Out :=
  updateReg (fun a => zext64 (trunc32 a &&& imm)) dst s

/-- `and dst, src`, `0x5C` (R109). -/
def execAndReg (dst : Reg) (src : Reg) (s : State) : Out :=
  updateReg2 (fun a b => zext64 (trunc32 a &&& trunc32 b)) dst src s

/-- `lsh dst, imm`, `0x64` (R110). -/
def execLshImm (dst : Reg) (imm : Imm) (s : State) : Out :=
  updateReg (fun a => zext64 (lsl32 (trunc32 a) imm)) dst s

/-- `lsh dst, src`, `0x6C` (R111). -/
def execLshReg (dst : Reg) (src : Reg) (s : State) : Out :=
  updateReg2 (fun a b => zext64 (lsl32 (trunc32 a) (trunc32 b))) dst src s

/-- `rsh dst, imm`, `0x74` (R112). -/
def execRshImm (dst : Reg) (imm : Imm) (s : State) : Out :=
  updateReg (fun a => zext64 (lsr32 (trunc32 a) imm)) dst s

/-- `rsh dst, src`, `0x7C` (R113). -/
def execRshReg (dst : Reg) (src : Reg) (s : State) : Out :=
  updateReg2 (fun a b => zext64 (lsr32 (trunc32 a) (trunc32 b))) dst src s

/-- `xor dst, imm`, `0xA4` (R114). -/
def execXorImm (dst : Reg) (imm : Imm) (s : State) : Out :=
  updateReg (fun a => zext64 (trunc32 a ^^^ imm)) dst s

/-- `xor dst, src`, `0xAC` (R115). -/
def execXorReg (dst : Reg) (src : Reg) (s : State) : Out :=
  updateReg2 (fun a b => zext64 (trunc32 a ^^^ trunc32 b)) dst src s

/-- `mov dst, imm`, `0xB4` (R116): sign-extended, `dst` is not read. -/
def execMovImm (dst : Reg) (imm : Imm) (s : State) : Out :=
  loadReg (sext64 imm) dst s

/-- `mov dst, src`, `0xBC` (R117): the low half of `src`, sign-extended; `dst` is not read. -/
def execMovReg (dst : Reg) (src : Reg) (s : State) : Out :=
  copyReg (fun b => sext64 (trunc32 b)) dst src s

/-- `ash dst, imm`, `0xC4` (R118). -/
def execAshImm (dst : Reg) (imm : Imm) (s : State) : Out :=
  updateReg (fun a => zext64 (asr32 (trunc32 a) imm)) dst s

/-- `ash dst, src`, `0xCC` (R119). -/
def execAshReg (dst : Reg) (src : Reg) (s : State) : Out :=
  updateReg2 (fun a b => zext64 (asr32 (trunc32 a) (trunc32 b))) dst src s

/-- `be dst, imm`, `0xDC` (R120): the low bytes reversed, zero-extended. -/
def execBe (dst : Reg) (size : SwapSize) (s : State) : Out :=
  updateReg (fun a => byteSwap size a) dst s

end Sys2Proof.Machine
end

