-- ==== Sys2Proof/Machine/Alu64.lean ====
section
/-! DEFINITION. The meanings of class 7, 64-bit arithmetic and logic (41_alu64.md). All 64 bits of the registers are used
(R130); how the immediate is widened is R131. Nothing here raises a panic but the sequential advance. -/
namespace Sys2Proof.Machine

/-- `add64 dst, imm`, `0x07` (R132): sign-extended immediate; the only instruction whose `dst` may be `r11`. -/
def execAdd64Imm (dst : Reg) (imm : Imm) (s : State) : Out :=
  updateReg (fun a => a + sext64 imm) dst s

/-- `add64 dst, src`, `0x0F` (R133). -/
def execAdd64Reg (dst : Reg) (src : Reg) (s : State) : Out :=
  updateReg2 (fun a b => a + b) dst src s

/-- `sub64 dst, imm`, `0x17` (R134): the sign-extended immediate is the minuend. -/
def execSub64Imm (dst : Reg) (imm : Imm) (s : State) : Out :=
  updateReg (fun a => sext64 imm - a) dst s

/-- `sub64 dst, src`, `0x1F` (R135). -/
def execSub64Reg (dst : Reg) (src : Reg) (s : State) : Out :=
  updateReg2 (fun a b => a - b) dst src s

/-- `or64 dst, imm`, `0x47` (R136): the immediate widened as `IMM64_LOGIC_EXT` says. -/
def execOr64Imm (dst : Reg) (imm : Imm) (s : State) : Out :=
  updateReg (fun a => a ||| extend64 s.params.imm64LogicExt imm) dst s

/-- `or64 dst, src`, `0x4F` (R137). -/
def execOr64Reg (dst : Reg) (src : Reg) (s : State) : Out :=
  updateReg2 (fun a b => a ||| b) dst src s

/-- `and64 dst, imm`, `0x57` (R138): the immediate widened as `IMM64_LOGIC_EXT` says. -/
def execAnd64Imm (dst : Reg) (imm : Imm) (s : State) : Out :=
  updateReg (fun a => a &&& extend64 s.params.imm64LogicExt imm) dst s

/-- `and64 dst, src`, `0x5F` (R139). -/
def execAnd64Reg (dst : Reg) (src : Reg) (s : State) : Out :=
  updateReg2 (fun a b => a &&& b) dst src s

/-- `lsh64 dst, imm`, `0x67` (R140). -/
def execLsh64Imm (dst : Reg) (imm : Imm) (s : State) : Out :=
  updateReg (fun a => lsl64 a imm) dst s

/-- `lsh64 dst, src`, `0x6F` (R141). -/
def execLsh64Reg (dst : Reg) (src : Reg) (s : State) : Out :=
  updateReg2 (fun a b => lsl64 a (trunc32 b)) dst src s

/-- `rsh64 dst, imm`, `0x77` (R142). -/
def execRsh64Imm (dst : Reg) (imm : Imm) (s : State) : Out :=
  updateReg (fun a => lsr64 a imm) dst s

/-- `rsh64 dst, src`, `0x7F` (R143). -/
def execRsh64Reg (dst : Reg) (src : Reg) (s : State) : Out :=
  updateReg2 (fun a b => lsr64 a (trunc32 b)) dst src s

/-- `xor64 dst, imm`, `0xA7` (R144): the immediate widened as `IMM64_LOGIC_EXT` says. -/
def execXor64Imm (dst : Reg) (imm : Imm) (s : State) : Out :=
  updateReg (fun a => a ^^^ extend64 s.params.imm64LogicExt imm) dst s

/-- `xor64 dst, src`, `0xAF` (R145). -/
def execXor64Reg (dst : Reg) (src : Reg) (s : State) : Out :=
  updateReg2 (fun a b => a ^^^ b) dst src s

/-- `mov64 dst, imm`, `0xB7` (R146): zero-extended, `dst` is not read. -/
def execMov64Imm (dst : Reg) (imm : Imm) (s : State) : Out :=
  loadReg (zext64 imm) dst s

/-- `mov64 dst, src`, `0xBF` (R147): a full copy, `dst` is not read. -/
def execMov64Reg (dst : Reg) (src : Reg) (s : State) : Out :=
  copyReg (fun b => b) dst src s

/-- `ash64 dst, imm`, `0xC7` (R148). -/
def execAsh64Imm (dst : Reg) (imm : Imm) (s : State) : Out :=
  updateReg (fun a => asr64 a imm) dst s

/-- `ash64 dst, src`, `0xCF` (R149). -/
def execAsh64Reg (dst : Reg) (src : Reg) (s : State) : Out :=
  updateReg2 (fun a b => asr64 a (trunc32 b)) dst src s

/-- `hor64 dst, imm`, `0xF7` (R150): the immediate ORed into bits 63..32. -/
def execHor64 (dst : Reg) (imm : Imm) (s : State) : Out :=
  updateReg (fun a => a ||| (extend64 s.params.imm64LogicExt imm <<< 32)) dst s

end Sys2Proof.Machine
end

