-- ==== Sys2Proof/Machine/Flags.lean ====
section
/-! DEFINITION. There are no flags (10_state.md R29): every conditional jump evaluates its own condition from two 64-bit
values. The eleven conditions of 44_control_flow.md R225 to R246, on `x[dst]` and the second operand (`x[src]`, or the
immediate sign-extended to 64 bits). -/
namespace Sys2Proof.Machine

/-- `jeq` (R225, R226). -/
def condEq (a b : Word) : Bool := a == b

/-- `jgt`, unsigned (R227, R228). -/
def condGt (a b : Word) : Bool := b.ult a

/-- `jge`, unsigned (R229, R230). -/
def condGe (a b : Word) : Bool := b.ule a

/-- `jset` (R231, R232). -/
def condSet (a b : Word) : Bool := (a &&& b) != 0

/-- `jne` (R233, R234). -/
def condNe (a b : Word) : Bool := a != b

/-- `jsgt`, signed (R235, R236). -/
def condSgt (a b : Word) : Bool := b.slt a

/-- `jsge`, signed (R237, R238). -/
def condSge (a b : Word) : Bool := b.sle a

/-- `jlt`, unsigned (R239, R240). -/
def condLt (a b : Word) : Bool := a.ult b

/-- `jle`, unsigned (R241, R242). -/
def condLe (a b : Word) : Bool := a.ule b

/-- `jslt`, signed (R243, R244). -/
def condSlt (a b : Word) : Bool := a.slt b

/-- `jsle`, signed (R245, R246). -/
def condSle (a b : Word) : Bool := a.sle b

end Sys2Proof.Machine
end

