-- ==== Sys2Proof/Machine/ControlFlow.lean ====
section
/-! DEFINITION. The meanings of class 5, control flow (44_control_flow.md). -/
namespace Sys2Proof.Machine

/-- `ja off`, `0x05` (R224). -/
def execJa (off : Off) (s : State) : Out :=
  jump off s

/-- `jeq dst, imm, off`, `0x15` (R225). -/
def execJeqImm (dst : Reg) (imm : Imm) (off : Off) (s : State) : Out :=
  jumpIfImm condEq dst imm off s

/-- `jeq dst, src, off`, `0x1D` (R226). -/
def execJeqReg (dst : Reg) (src : Reg) (off : Off) (s : State) : Out :=
  jumpIfReg condEq dst src off s

/-- `jgt dst, imm, off`, `0x25` (R227). -/
def execJgtImm (dst : Reg) (imm : Imm) (off : Off) (s : State) : Out :=
  jumpIfImm condGt dst imm off s

/-- `jgt dst, src, off`, `0x2D` (R228). -/
def execJgtReg (dst : Reg) (src : Reg) (off : Off) (s : State) : Out :=
  jumpIfReg condGt dst src off s

/-- `jge dst, imm, off`, `0x35` (R229). -/
def execJgeImm (dst : Reg) (imm : Imm) (off : Off) (s : State) : Out :=
  jumpIfImm condGe dst imm off s

/-- `jge dst, src, off`, `0x3D` (R230). -/
def execJgeReg (dst : Reg) (src : Reg) (off : Off) (s : State) : Out :=
  jumpIfReg condGe dst src off s

/-- `jset dst, imm, off`, `0x45` (R231). -/
def execJsetImm (dst : Reg) (imm : Imm) (off : Off) (s : State) : Out :=
  jumpIfImm condSet dst imm off s

/-- `jset dst, src, off`, `0x4D` (R232). -/
def execJsetReg (dst : Reg) (src : Reg) (off : Off) (s : State) : Out :=
  jumpIfReg condSet dst src off s

/-- `jne dst, imm, off`, `0x55` (R233). -/
def execJneImm (dst : Reg) (imm : Imm) (off : Off) (s : State) : Out :=
  jumpIfImm condNe dst imm off s

/-- `jne dst, src, off`, `0x5D` (R234). -/
def execJneReg (dst : Reg) (src : Reg) (off : Off) (s : State) : Out :=
  jumpIfReg condNe dst src off s

/-- `jsgt dst, imm, off`, `0x65` (R235). -/
def execJsgtImm (dst : Reg) (imm : Imm) (off : Off) (s : State) : Out :=
  jumpIfImm condSgt dst imm off s

/-- `jsgt dst, src, off`, `0x6D` (R236). -/
def execJsgtReg (dst : Reg) (src : Reg) (off : Off) (s : State) : Out :=
  jumpIfReg condSgt dst src off s

/-- `jsge dst, imm, off`, `0x75` (R237). -/
def execJsgeImm (dst : Reg) (imm : Imm) (off : Off) (s : State) : Out :=
  jumpIfImm condSge dst imm off s

/-- `jsge dst, src, off`, `0x7D` (R238). -/
def execJsgeReg (dst : Reg) (src : Reg) (off : Off) (s : State) : Out :=
  jumpIfReg condSge dst src off s

/-- `jlt dst, imm, off`, `0xA5` (R239). -/
def execJltImm (dst : Reg) (imm : Imm) (off : Off) (s : State) : Out :=
  jumpIfImm condLt dst imm off s

/-- `jlt dst, src, off`, `0xAD` (R240). -/
def execJltReg (dst : Reg) (src : Reg) (off : Off) (s : State) : Out :=
  jumpIfReg condLt dst src off s

/-- `jle dst, imm, off`, `0xB5` (R241). -/
def execJleImm (dst : Reg) (imm : Imm) (off : Off) (s : State) : Out :=
  jumpIfImm condLe dst imm off s

/-- `jle dst, src, off`, `0xBD` (R242). -/
def execJleReg (dst : Reg) (src : Reg) (off : Off) (s : State) : Out :=
  jumpIfReg condLe dst src off s

/-- `jslt dst, imm, off`, `0xC5` (R243). -/
def execJsltImm (dst : Reg) (imm : Imm) (off : Off) (s : State) : Out :=
  jumpIfImm condSlt dst imm off s

/-- `jslt dst, src, off`, `0xCD` (R244). -/
def execJsltReg (dst : Reg) (src : Reg) (off : Off) (s : State) : Out :=
  jumpIfReg condSlt dst src off s

/-- `jsle dst, imm, off`, `0xD5` (R245). -/
def execJsleImm (dst : Reg) (imm : Imm) (off : Off) (s : State) : Out :=
  jumpIfImm condSle dst imm off s

/-- `jsle dst, src, off`, `0xDD` (R246). -/
def execJsleReg (dst : Reg) (src : Reg) (off : Off) (s : State) : Out :=
  jumpIfReg condSle dst src off s

/-- `call off`, `0x85` (R247). -/
def execCall (off : Off) (s : State) : Out :=
  callTo (slotInText s.params.text.length (targetSlot s.pc off)) (.slot (targetSlot s.pc off)) s

/-- `callx src`, `0x8D` (R248): the register holds a byte address. -/
def execCallx (src : Reg) (s : State) : Out :=
  withReg s src fun a => callTo (slotOfAddress s.params.textBase s.params.text.length a) (.address a) s

/-- `exit`, `0x95` (R249). -/
def execExit (s : State) : Out :=
  returnOrHalt s

end Sys2Proof.Machine
end

