-- ==== Sys2Proof/Machine/LoadStore.lean ====
section
/-! DEFINITION. The meanings of the twelve loads and stores (43_memory_ops.md): loads zero-extend, narrow stores keep the low
bytes, `stdw` widens its immediate as `STDW_IMM_EXT` says. -/
namespace Sys2Proof.Machine

/-- `ldxw dst, [src + off]`, `0x61` (R203). -/
def execLdxw (dst : Reg) (src : Reg) (off : Off) (s : State) : Out :=
  load .word dst src off s

/-- `ldxh dst, [src + off]`, `0x69` (R204). -/
def execLdxh (dst : Reg) (src : Reg) (off : Off) (s : State) : Out :=
  load .half dst src off s

/-- `ldxb dst, [src + off]`, `0x71` (R205). -/
def execLdxb (dst : Reg) (src : Reg) (off : Off) (s : State) : Out :=
  load .byte dst src off s

/-- `ldxdw dst, [src + off]`, `0x79` (R206). -/
def execLdxdw (dst : Reg) (src : Reg) (off : Off) (s : State) : Out :=
  load .double dst src off s

/-- `stw [dst + off], imm`, `0x62` (R207). -/
def execStw (dst : Reg) (off : Off) (imm : Imm) (s : State) : Out :=
  storeImm .word dst off (zext64 imm) s

/-- `sth [dst + off], imm`, `0x6A` (R208). -/
def execSth (dst : Reg) (off : Off) (imm : Imm) (s : State) : Out :=
  storeImm .half dst off (zext64 imm) s

/-- `stb [dst + off], imm`, `0x72` (R209). -/
def execStb (dst : Reg) (off : Off) (imm : Imm) (s : State) : Out :=
  storeImm .byte dst off (zext64 imm) s

/-- `stdw [dst + off], imm`, `0x7A` (R210): the immediate widened as `STDW_IMM_EXT` says. -/
def execStdw (dst : Reg) (off : Off) (imm : Imm) (s : State) : Out :=
  storeImm .double dst off (extend64 s.params.stdwImmExt imm) s

/-- `stxw [dst + off], src`, `0x63` (R211). -/
def execStxw (dst : Reg) (off : Off) (src : Reg) (s : State) : Out :=
  storeReg .word dst off src s

/-- `stxh [dst + off], src`, `0x6B` (R212). -/
def execStxh (dst : Reg) (off : Off) (src : Reg) (s : State) : Out :=
  storeReg .half dst off src s

/-- `stxb [dst + off], src`, `0x73` (R213). -/
def execStxb (dst : Reg) (off : Off) (src : Reg) (s : State) : Out :=
  storeReg .byte dst off src s

/-- `stxdw [dst + off], src`, `0x7B` (R214). -/
def execStxdw (dst : Reg) (off : Off) (src : Reg) (s : State) : Out :=
  storeReg .double dst off src s

end Sys2Proof.Machine
end

