-- ==== Sys2Proof/Machine/Pqr.lean ====
section
/-! DEFINITION. The meanings of class 6, product, quotient and remainder (42_pqr.md). How each widens its operands is R163; the
panics of the divisions are R161 and R162, tested before the sequential advance (R264). -/
namespace Sys2Proof.Machine

/-- `uhmul64 dst, imm`, `0x36` (R164). -/
def execUhmul64Imm (dst : Reg) (imm : Imm) (s : State) : Out :=
  updateReg (fun a => highProduct a.toNat imm.toNat) dst s

/-- `uhmul64 dst, src`, `0x3E` (R165). -/
def execUhmul64Reg (dst : Reg) (src : Reg) (s : State) : Out :=
  updateReg2 (fun a b => highProduct a.toNat b.toNat) dst src s

/-- `udiv32 dst, imm`, `0x46` (R166). -/
def execUdiv32Imm (dst : Reg) (imm : Imm) (s : State) : Out :=
  divideReg (fun a => (unsignedQuotient (trunc32 a).toNat imm.toNat).map narrow32) dst s

/-- `udiv32 dst, src`, `0x4E` (R167). -/
def execUdiv32Reg (dst : Reg) (src : Reg) (s : State) : Out :=
  divideReg2 (fun a b => (unsignedQuotient (trunc32 a).toNat (trunc32 b).toNat).map narrow32) dst src s

/-- `udiv64 dst, imm`, `0x56` (R168): the immediate zero-extended. -/
def execUdiv64Imm (dst : Reg) (imm : Imm) (s : State) : Out :=
  divideReg (fun a => (unsignedQuotient a.toNat imm.toNat).map (BitVec.ofNat 64)) dst s

/-- `udiv64 dst, src`, `0x5E` (R169). -/
def execUdiv64Reg (dst : Reg) (src : Reg) (s : State) : Out :=
  divideReg2 (fun a b => (unsignedQuotient a.toNat b.toNat).map (BitVec.ofNat 64)) dst src s

/-- `urem32 dst, imm`, `0x66` (R170). -/
def execUrem32Imm (dst : Reg) (imm : Imm) (s : State) : Out :=
  divideReg (fun a => (unsignedRemainder (trunc32 a).toNat imm.toNat).map narrow32) dst s

/-- `urem32 dst, src`, `0x6E` (R171). -/
def execUrem32Reg (dst : Reg) (src : Reg) (s : State) : Out :=
  divideReg2 (fun a b => (unsignedRemainder (trunc32 a).toNat (trunc32 b).toNat).map narrow32) dst src s

/-- `urem64 dst, imm`, `0x76` (R172): the immediate zero-extended. -/
def execUrem64Imm (dst : Reg) (imm : Imm) (s : State) : Out :=
  divideReg (fun a => (unsignedRemainder a.toNat imm.toNat).map (BitVec.ofNat 64)) dst s

/-- `urem64 dst, src`, `0x7E` (R173). -/
def execUrem64Reg (dst : Reg) (src : Reg) (s : State) : Out :=
  divideReg2 (fun a b => (unsignedRemainder a.toNat b.toNat).map (BitVec.ofNat 64)) dst src s

/-- `lmul32 dst, imm`, `0x86` (R174). -/
def execLmul32Imm (dst : Reg) (imm : Imm) (s : State) : Out :=
  updateReg (fun a => zext64 (trunc32 a * imm)) dst s

/-- `lmul32 dst, src`, `0x8E` (R175). -/
def execLmul32Reg (dst : Reg) (src : Reg) (s : State) : Out :=
  updateReg2 (fun a b => zext64 (trunc32 a * trunc32 b)) dst src s

/-- `lmul64 dst, imm`, `0x96` (R176): the immediate zero-extended. -/
def execLmul64Imm (dst : Reg) (imm : Imm) (s : State) : Out :=
  updateReg (fun a => a * zext64 imm) dst s

/-- `lmul64 dst, src`, `0x9E` (R177). -/
def execLmul64Reg (dst : Reg) (src : Reg) (s : State) : Out :=
  updateReg2 (fun a b => a * b) dst src s

/-- `shmul64 dst, imm`, `0xB6` (R178): `dst` as `SHMUL64_DST_EXT` says, the immediate signed. -/
def execShmul64Imm (dst : Reg) (imm : Imm) (s : State) : Out :=
  updateReg (fun a => highProductInt (shmulFactor s.params.shmul64DstExt a) imm.toInt) dst s

/-- `shmul64 dst, src`, `0xBE` (R179): `dst` as `SHMUL64_DST_EXT` says, `src` signed. -/
def execShmul64Reg (dst : Reg) (src : Reg) (s : State) : Out :=
  updateReg2 (fun a b => highProductInt (shmulFactor s.params.shmul64DstExt a) b.toInt) dst src s

/-- `sdiv32 dst, imm`, `0xC6` (R180). -/
def execSdiv32Imm (dst : Reg) (imm : Imm) (s : State) : Out :=
  divideReg (fun a => (signedQuotient 32 (trunc32 a).toInt imm.toInt).map narrowInt32) dst s

/-- `sdiv32 dst, src`, `0xCE` (R181). -/
def execSdiv32Reg (dst : Reg) (src : Reg) (s : State) : Out :=
  divideReg2 (fun a b => (signedQuotient 32 (trunc32 a).toInt (trunc32 b).toInt).map narrowInt32) dst src s

/-- `sdiv64 dst, imm`, `0xD6` (R182): the divisor is the zero-extended immediate, never negative. -/
def execSdiv64Imm (dst : Reg) (imm : Imm) (s : State) : Out :=
  divideReg (fun a => (signedQuotient 64 a.toInt imm.toNat).map (BitVec.ofInt 64)) dst s

/-- `sdiv64 dst, src`, `0xDE` (R183). -/
def execSdiv64Reg (dst : Reg) (src : Reg) (s : State) : Out :=
  divideReg2 (fun a b => (signedQuotient 64 a.toInt b.toInt).map (BitVec.ofInt 64)) dst src s

/-- `srem32 dst, imm`, `0xE6` (R184). -/
def execSrem32Imm (dst : Reg) (imm : Imm) (s : State) : Out :=
  divideReg (fun a => (signedRemainder 32 (trunc32 a).toInt imm.toInt).map narrowInt32) dst s

/-- `srem32 dst, src`, `0xEE` (R185). -/
def execSrem32Reg (dst : Reg) (src : Reg) (s : State) : Out :=
  divideReg2 (fun a b => (signedRemainder 32 (trunc32 a).toInt (trunc32 b).toInt).map narrowInt32) dst src s

/-- `srem64 dst, imm`, `0xF6` (R186): the divisor is the zero-extended immediate, never negative. -/
def execSrem64Imm (dst : Reg) (imm : Imm) (s : State) : Out :=
  divideReg (fun a => (signedRemainder 64 a.toInt imm.toNat).map (BitVec.ofInt 64)) dst s

/-- `srem64 dst, src`, `0xFE` (R187). -/
def execSrem64Reg (dst : Reg) (src : Reg) (s : State) : Out :=
  divideReg2 (fun a b => (signedRemainder 64 a.toInt b.toInt).map (BitVec.ofInt 64)) dst src s

end Sys2Proof.Machine
end

