-- ==== Sys2Proof/Machine/Dispatch.lean ====
section
/-! DEFINITION. One arm for each instruction: its meaning. -/
namespace Sys2Proof.Machine

def exec (i : Instr) (s : State) : Host.Outcome State Fault Refusal :=
  match i with
  | .ldxw dst src off => Sys2Proof.Machine.execLdxw dst src off s
  | .ldxh dst src off => Sys2Proof.Machine.execLdxh dst src off s
  | .ldxb dst src off => Sys2Proof.Machine.execLdxb dst src off s
  | .ldxdw dst src off => Sys2Proof.Machine.execLdxdw dst src off s
  | .stw dst off imm => Sys2Proof.Machine.execStw dst off imm s
  | .sth dst off imm => Sys2Proof.Machine.execSth dst off imm s
  | .stb dst off imm => Sys2Proof.Machine.execStb dst off imm s
  | .stdw dst off imm => Sys2Proof.Machine.execStdw dst off imm s
  | .stxw dst off src => Sys2Proof.Machine.execStxw dst off src s
  | .stxh dst off src => Sys2Proof.Machine.execStxh dst off src s
  | .stxb dst off src => Sys2Proof.Machine.execStxb dst off src s
  | .stxdw dst off src => Sys2Proof.Machine.execStxdw dst off src s
  | .addImm dst imm => Sys2Proof.Machine.execAddImm dst imm s
  | .addReg dst src => Sys2Proof.Machine.execAddReg dst src s
  | .subImm dst imm => Sys2Proof.Machine.execSubImm dst imm s
  | .subReg dst src => Sys2Proof.Machine.execSubReg dst src s
  | .orImm dst imm => Sys2Proof.Machine.execOrImm dst imm s
  | .orReg dst src => Sys2Proof.Machine.execOrReg dst src s
  | .andImm dst imm => Sys2Proof.Machine.execAndImm dst imm s
  | .andReg dst src => Sys2Proof.Machine.execAndReg dst src s
  | .lshImm dst imm => Sys2Proof.Machine.execLshImm dst imm s
  | .lshReg dst src => Sys2Proof.Machine.execLshReg dst src s
  | .rshImm dst imm => Sys2Proof.Machine.execRshImm dst imm s
  | .rshReg dst src => Sys2Proof.Machine.execRshReg dst src s
  | .xorImm dst imm => Sys2Proof.Machine.execXorImm dst imm s
  | .xorReg dst src => Sys2Proof.Machine.execXorReg dst src s
  | .movImm dst imm => Sys2Proof.Machine.execMovImm dst imm s
  | .movReg dst src => Sys2Proof.Machine.execMovReg dst src s
  | .ashImm dst imm => Sys2Proof.Machine.execAshImm dst imm s
  | .ashReg dst src => Sys2Proof.Machine.execAshReg dst src s
  | .be dst size => Sys2Proof.Machine.execBe dst size s
  | .uhmul64Imm dst imm => Sys2Proof.Machine.execUhmul64Imm dst imm s
  | .uhmul64Reg dst src => Sys2Proof.Machine.execUhmul64Reg dst src s
  | .udiv32Imm dst imm => Sys2Proof.Machine.execUdiv32Imm dst imm s
  | .udiv32Reg dst src => Sys2Proof.Machine.execUdiv32Reg dst src s
  | .udiv64Imm dst imm => Sys2Proof.Machine.execUdiv64Imm dst imm s
  | .udiv64Reg dst src => Sys2Proof.Machine.execUdiv64Reg dst src s
  | .urem32Imm dst imm => Sys2Proof.Machine.execUrem32Imm dst imm s
  | .urem32Reg dst src => Sys2Proof.Machine.execUrem32Reg dst src s
  | .urem64Imm dst imm => Sys2Proof.Machine.execUrem64Imm dst imm s
  | .urem64Reg dst src => Sys2Proof.Machine.execUrem64Reg dst src s
  | .lmul32Imm dst imm => Sys2Proof.Machine.execLmul32Imm dst imm s
  | .lmul32Reg dst src => Sys2Proof.Machine.execLmul32Reg dst src s
  | .lmul64Imm dst imm => Sys2Proof.Machine.execLmul64Imm dst imm s
  | .lmul64Reg dst src => Sys2Proof.Machine.execLmul64Reg dst src s
  | .shmul64Imm dst imm => Sys2Proof.Machine.execShmul64Imm dst imm s
  | .shmul64Reg dst src => Sys2Proof.Machine.execShmul64Reg dst src s
  | .sdiv32Imm dst imm => Sys2Proof.Machine.execSdiv32Imm dst imm s
  | .sdiv32Reg dst src => Sys2Proof.Machine.execSdiv32Reg dst src s
  | .sdiv64Imm dst imm => Sys2Proof.Machine.execSdiv64Imm dst imm s
  | .sdiv64Reg dst src => Sys2Proof.Machine.execSdiv64Reg dst src s
  | .srem32Imm dst imm => Sys2Proof.Machine.execSrem32Imm dst imm s
  | .srem32Reg dst src => Sys2Proof.Machine.execSrem32Reg dst src s
  | .srem64Imm dst imm => Sys2Proof.Machine.execSrem64Imm dst imm s
  | .srem64Reg dst src => Sys2Proof.Machine.execSrem64Reg dst src s
  | .add64Imm dst imm => Sys2Proof.Machine.execAdd64Imm dst imm s
  | .add64Reg dst src => Sys2Proof.Machine.execAdd64Reg dst src s
  | .sub64Imm dst imm => Sys2Proof.Machine.execSub64Imm dst imm s
  | .sub64Reg dst src => Sys2Proof.Machine.execSub64Reg dst src s
  | .or64Imm dst imm => Sys2Proof.Machine.execOr64Imm dst imm s
  | .or64Reg dst src => Sys2Proof.Machine.execOr64Reg dst src s
  | .and64Imm dst imm => Sys2Proof.Machine.execAnd64Imm dst imm s
  | .and64Reg dst src => Sys2Proof.Machine.execAnd64Reg dst src s
  | .lsh64Imm dst imm => Sys2Proof.Machine.execLsh64Imm dst imm s
  | .lsh64Reg dst src => Sys2Proof.Machine.execLsh64Reg dst src s
  | .rsh64Imm dst imm => Sys2Proof.Machine.execRsh64Imm dst imm s
  | .rsh64Reg dst src => Sys2Proof.Machine.execRsh64Reg dst src s
  | .xor64Imm dst imm => Sys2Proof.Machine.execXor64Imm dst imm s
  | .xor64Reg dst src => Sys2Proof.Machine.execXor64Reg dst src s
  | .mov64Imm dst imm => Sys2Proof.Machine.execMov64Imm dst imm s
  | .mov64Reg dst src => Sys2Proof.Machine.execMov64Reg dst src s
  | .ash64Imm dst imm => Sys2Proof.Machine.execAsh64Imm dst imm s
  | .ash64Reg dst src => Sys2Proof.Machine.execAsh64Reg dst src s
  | .hor64 dst imm => Sys2Proof.Machine.execHor64 dst imm s
  | .ja off => Sys2Proof.Machine.execJa off s
  | .jeqImm dst imm off => Sys2Proof.Machine.execJeqImm dst imm off s
  | .jeqReg dst src off => Sys2Proof.Machine.execJeqReg dst src off s
  | .jgtImm dst imm off => Sys2Proof.Machine.execJgtImm dst imm off s
  | .jgtReg dst src off => Sys2Proof.Machine.execJgtReg dst src off s
  | .jgeImm dst imm off => Sys2Proof.Machine.execJgeImm dst imm off s
  | .jgeReg dst src off => Sys2Proof.Machine.execJgeReg dst src off s
  | .jsetImm dst imm off => Sys2Proof.Machine.execJsetImm dst imm off s
  | .jsetReg dst src off => Sys2Proof.Machine.execJsetReg dst src off s
  | .jneImm dst imm off => Sys2Proof.Machine.execJneImm dst imm off s
  | .jneReg dst src off => Sys2Proof.Machine.execJneReg dst src off s
  | .jsgtImm dst imm off => Sys2Proof.Machine.execJsgtImm dst imm off s
  | .jsgtReg dst src off => Sys2Proof.Machine.execJsgtReg dst src off s
  | .jsgeImm dst imm off => Sys2Proof.Machine.execJsgeImm dst imm off s
  | .jsgeReg dst src off => Sys2Proof.Machine.execJsgeReg dst src off s
  | .call off => Sys2Proof.Machine.execCall off s
  | .callx src => Sys2Proof.Machine.execCallx src s
  | .exit => Sys2Proof.Machine.execExit s
  | .jltImm dst imm off => Sys2Proof.Machine.execJltImm dst imm off s
  | .jltReg dst src off => Sys2Proof.Machine.execJltReg dst src off s
  | .jleImm dst imm off => Sys2Proof.Machine.execJleImm dst imm off s
  | .jleReg dst src off => Sys2Proof.Machine.execJleReg dst src off s
  | .jsltImm dst imm off => Sys2Proof.Machine.execJsltImm dst imm off s
  | .jsltReg dst src off => Sys2Proof.Machine.execJsltReg dst src off s
  | .jsleImm dst imm off => Sys2Proof.Machine.execJsleImm dst imm off s
  | .jsleReg dst src off => Sys2Proof.Machine.execJsleReg dst src off s

end Sys2Proof.Machine
end

