-- ==== Sys2Proof/Machine/Step.lean ====
section
/-! DEFINITION. The step function (70_reset_and_hazards.md R294). -/
namespace Sys2Proof.Machine

/-- Decode a fetched word and run it, or raise the panic of an invalid word (R294 (2) to (5)). -/
def runWord (s : State) (w : Word) : Out :=
  match decode s.params.strictUnusedFields w with
  | .ok i => exec i s
  | .error e => raise s (invalidWordPanic s.pc w e)

/-- One step (R294): defined while the status is `Running`; a state that is `Halted` or `Faulted` has none (R33). -/
def step (s : State) : Host.Outcome State Fault Refusal :=
  match s.status with
  | .halted => .refused .halted
  | .faulted p => .fault (.stopped p)
  | .running =>
    match fetch s with
    | some w => runWord s w
    | none => .refused (.pcOutsideText s.pc)

/-- The state whose next step fetches and runs the instruction whose bits are `w` (log 4). -/
def State.withFetchWord (s : State) (nbits w : Nat) : State := placeWord s (tableWord nbits w)

end Sys2Proof.Machine
end

