-- ==== Sys2Proof/Machine/Launch.lean ====
section
/-! DEFINITION. The launch of a run (70_reset_and_hazards.md R290, R291; 10_state.md R34): what the host must supply, and the
state it gives. -/
namespace Sys2Proof.Machine

/-- Whether the ranges partition the slots `0 .. n-1`: each is non-empty and inside the text, and every slot lies in
exactly one (R31, R291 (1)). Their order in the list is free. -/
def functionsPartition (n : Nat) (fs : List FnRange) : Bool :=
  fs.all (fun f => decide (f.start < f.stop) && decide (f.stop ≤ n)) &&
  (List.range n).all fun i => (fs.filter fun f => inRange f i).length == 1

/-- Whether two regions have no address in common (R40). -/
def regionsDisjoint (r q : Region) : Bool :=
  decide (r.base + r.len ≤ q.base) || decide (q.base + q.len ≤ r.base)

/-- Whether the regions are non-empty, inside the address space and pairwise disjoint (R40, R291 (3)). -/
def regionsValid (memMap : List Region) : Bool :=
  memMap.all (fun r => decide (1 ≤ r.len) && decide (r.base + r.len ≤ 2 ^ 64)) &&
  decide (memMap.Pairwise fun r q => regionsDisjoint r q = true)

/-- Whether `TEXT_BASE` is a multiple of 8 with the whole text below `2^64` (R291 (5)). -/
def textBaseValid (textBase : Word) (n : Nat) : Bool :=
  decide (textBase.toNat % 8 = 0) && decide (textBase.toNat + 8 * n ≤ 2 ^ 64)

/-- The conditions (1), (2), (3) and (5) of R291. -/
def paramsValid (p : Params) : Bool :=
  decide (1 ≤ p.text.length) && functionsPartition p.text.length p.functions &&
  decide (p.entry < p.text.length) && regionsValid p.memMap && textBaseValid p.textBase p.text.length

/-- `InitMem` on the regions of `MemMap` (R34): the bytes the host lists, the later of two at one address; an address
outside every region keeps none (log 13). -/
def initialMemory (memMap : List Region) (initMem : List (Nat × Byte)) : Memory :=
  initMem.foldl (fun m c => if mapped memMap c.1 then writeByte m c.1 c.2 else m) []

/-- The launch state of R34, or no state where the host's input breaks its own constraints (R291). -/
def launch (input : LaunchInput) : Option State :=
  if paramsValid input.params then
    some {
      regs := input.initRegs
      pc := input.params.entry
      cs := []
      mem := initialMemory input.params.memMap input.initMem
      status := .running
      params := input.params }
  else none

end Sys2Proof.Machine
end

