-- ==== Sys2Proof/Safety.lean ====
section
/-! DEFINITION. What counts as a safe run, in the terms the statements use: the operands an instruction reads and the
register it writes, what it can raise (60_exceptions.md R263), the well-formed programs (70_reset_and_hazards.md R297) and
the invariants of a run. -/
namespace Sys2Proof.Machine

/-- The registers whose value an instruction reads, in the order the model reads them (log 11). -/
def reads : Instr → List Reg
  | .addImm dst _ | .subImm dst _ | .orImm dst _ | .andImm dst _
  | .lshImm dst _ | .rshImm dst _ | .xorImm dst _ | .ashImm dst _
  | .be dst _ | .uhmul64Imm dst _ | .udiv32Imm dst _ | .udiv64Imm dst _
  | .urem32Imm dst _ | .urem64Imm dst _ | .lmul32Imm dst _ | .lmul64Imm dst _
  | .shmul64Imm dst _ | .sdiv32Imm dst _ | .sdiv64Imm dst _ | .srem32Imm dst _
  | .srem64Imm dst _ | .add64Imm dst _ | .sub64Imm dst _ | .or64Imm dst _
  | .and64Imm dst _ | .lsh64Imm dst _ | .rsh64Imm dst _ | .xor64Imm dst _
  | .ash64Imm dst _ | .hor64 dst _ => [dst]
  | .movImm _ _ | .mov64Imm _ _ => []
  | .addReg dst src | .subReg dst src | .orReg dst src | .andReg dst src
  | .lshReg dst src | .rshReg dst src | .xorReg dst src | .ashReg dst src
  | .uhmul64Reg dst src | .udiv32Reg dst src | .udiv64Reg dst src | .urem32Reg dst src
  | .urem64Reg dst src | .lmul32Reg dst src | .lmul64Reg dst src | .shmul64Reg dst src
  | .sdiv32Reg dst src | .sdiv64Reg dst src | .srem32Reg dst src | .srem64Reg dst src
  | .add64Reg dst src | .sub64Reg dst src | .or64Reg dst src | .and64Reg dst src
  | .lsh64Reg dst src | .rsh64Reg dst src | .xor64Reg dst src | .ash64Reg dst src => [dst, src]
  | .ldxw _ src _ | .ldxh _ src _ | .ldxb _ src _ | .ldxdw _ src _
  | .movReg _ src | .mov64Reg _ src | .callx src => [src]
  | .stw dst _ _ | .sth dst _ _ | .stb dst _ _ | .stdw dst _ _
  | .jeqImm dst _ _ | .jgtImm dst _ _ | .jgeImm dst _ _ | .jsetImm dst _ _
  | .jneImm dst _ _ | .jsgtImm dst _ _ | .jsgeImm dst _ _ | .jltImm dst _ _
  | .jleImm dst _ _ | .jsltImm dst _ _ | .jsleImm dst _ _ => [dst]
  | .stxw dst _ src | .stxh dst _ src | .stxb dst _ src | .stxdw dst _ src
  | .jeqReg dst src _ | .jgtReg dst src _ | .jgeReg dst src _ | .jsetReg dst src _
  | .jneReg dst src _ | .jsgtReg dst src _ | .jsgeReg dst src _ | .jltReg dst src _
  | .jleReg dst src _ | .jsltReg dst src _ | .jsleReg dst src _ => [dst, src]
  | .ja _ | .call _ | .exit => []

/-- The register an instruction writes, if it writes one. (What the hooks of a call or return do to the registers is
not counted, R220.) -/
def destination : Instr → Option Reg
  | .ldxw dst _ _ | .ldxh dst _ _ | .ldxb dst _ _ | .ldxdw dst _ _
  | .addImm dst _ | .addReg dst _ | .subImm dst _ | .subReg dst _
  | .orImm dst _ | .orReg dst _ | .andImm dst _ | .andReg dst _
  | .lshImm dst _ | .lshReg dst _ | .rshImm dst _ | .rshReg dst _
  | .xorImm dst _ | .xorReg dst _ | .movImm dst _ | .movReg dst _
  | .ashImm dst _ | .ashReg dst _ | .be dst _ | .uhmul64Imm dst _
  | .uhmul64Reg dst _ | .udiv32Imm dst _ | .udiv32Reg dst _ | .udiv64Imm dst _
  | .udiv64Reg dst _ | .urem32Imm dst _ | .urem32Reg dst _ | .urem64Imm dst _
  | .urem64Reg dst _ | .lmul32Imm dst _ | .lmul32Reg dst _ | .lmul64Imm dst _
  | .lmul64Reg dst _ | .shmul64Imm dst _ | .shmul64Reg dst _ | .sdiv32Imm dst _
  | .sdiv32Reg dst _ | .sdiv64Imm dst _ | .sdiv64Reg dst _ | .srem32Imm dst _
  | .srem32Reg dst _ | .srem64Imm dst _ | .srem64Reg dst _ | .add64Imm dst _
  | .add64Reg dst _ | .sub64Imm dst _ | .sub64Reg dst _ | .or64Imm dst _
  | .or64Reg dst _ | .and64Imm dst _ | .and64Reg dst _ | .lsh64Imm dst _
  | .lsh64Reg dst _ | .rsh64Imm dst _ | .rsh64Reg dst _ | .xor64Imm dst _
  | .xor64Reg dst _ | .mov64Imm dst _ | .mov64Reg dst _ | .ash64Imm dst _
  | .ash64Reg dst _ | .hor64 dst _ => some dst
  | .stw _ _ _ | .sth _ _ _ | .stb _ _ _ | .stdw _ _ _
  | .stxw _ _ _ | .stxh _ _ _ | .stxb _ _ _ | .stxdw _ _ _
  | .ja _ | .jeqImm _ _ _ | .jeqReg _ _ _ | .jgtImm _ _ _
  | .jgtReg _ _ _ | .jgeImm _ _ _ | .jgeReg _ _ _ | .jsetImm _ _ _
  | .jsetReg _ _ _ | .jneImm _ _ _ | .jneReg _ _ _ | .jsgtImm _ _ _
  | .jsgtReg _ _ _ | .jsgeImm _ _ _ | .jsgeReg _ _ _ | .call _
  | .callx _ | .exit | .jltImm _ _ _ | .jltReg _ _ _
  | .jleImm _ _ _ | .jleReg _ _ _ | .jsltImm _ _ _ | .jsltReg _ _ _
  | .jsleImm _ _ _ | .jsleReg _ _ _ => none

/-- Whether the instruction is of class 4 or 7, or a multiplication of class 6: nothing of its own can panic (R263). -/
def isPlainArithmetic : Instr → Bool
  | .addImm _ _ | .addReg _ _ | .subImm _ _ | .subReg _ _
  | .orImm _ _ | .orReg _ _ | .andImm _ _ | .andReg _ _
  | .lshImm _ _ | .lshReg _ _ | .rshImm _ _ | .rshReg _ _
  | .xorImm _ _ | .xorReg _ _ | .movImm _ _ | .movReg _ _
  | .ashImm _ _ | .ashReg _ _ | .be _ _ | .uhmul64Imm _ _
  | .uhmul64Reg _ _ | .lmul32Imm _ _ | .lmul32Reg _ _ | .lmul64Imm _ _
  | .lmul64Reg _ _ | .shmul64Imm _ _ | .shmul64Reg _ _ | .add64Imm _ _
  | .add64Reg _ _ | .sub64Imm _ _ | .sub64Reg _ _ | .or64Imm _ _
  | .or64Reg _ _ | .and64Imm _ _ | .and64Reg _ _ | .lsh64Imm _ _
  | .lsh64Reg _ _ | .rsh64Imm _ _ | .rsh64Reg _ _ | .xor64Imm _ _
  | .xor64Reg _ _ | .mov64Imm _ _ | .mov64Reg _ _ | .ash64Imm _ _
  | .ash64Reg _ _ | .hor64 _ _ => true
  | .ldxw _ _ _ | .ldxh _ _ _ | .ldxb _ _ _ | .ldxdw _ _ _
  | .stw _ _ _ | .sth _ _ _ | .stb _ _ _ | .stdw _ _ _
  | .stxw _ _ _ | .stxh _ _ _ | .stxb _ _ _ | .stxdw _ _ _
  | .udiv32Imm _ _ | .udiv32Reg _ _ | .udiv64Imm _ _ | .udiv64Reg _ _
  | .urem32Imm _ _ | .urem32Reg _ _ | .urem64Imm _ _ | .urem64Reg _ _
  | .sdiv32Imm _ _ | .sdiv32Reg _ _ | .sdiv64Imm _ _ | .sdiv64Reg _ _
  | .srem32Imm _ _ | .srem32Reg _ _ | .srem64Imm _ _ | .srem64Reg _ _
  | .ja _ | .jeqImm _ _ _ | .jeqReg _ _ _ | .jgtImm _ _ _
  | .jgtReg _ _ _ | .jgeImm _ _ _ | .jgeReg _ _ _ | .jsetImm _ _ _
  | .jsetReg _ _ _ | .jneImm _ _ _ | .jneReg _ _ _ | .jsgtImm _ _ _
  | .jsgtReg _ _ _ | .jsgeImm _ _ _ | .jsgeReg _ _ _ | .call _
  | .callx _ | .exit | .jltImm _ _ _ | .jltReg _ _ _
  | .jleImm _ _ _ | .jleReg _ _ _ | .jsltImm _ _ _ | .jsltReg _ _ _
  | .jsleImm _ _ _ | .jsleReg _ _ _ => false

/-- Whether the instruction is of classes 1, 2, 3, 4, 6 or 7, which complete by advancing to `pc + 1` (R28). -/
def isSequential : Instr → Bool
  | .ldxw _ _ _ | .ldxh _ _ _ | .ldxb _ _ _ | .ldxdw _ _ _
  | .stw _ _ _ | .sth _ _ _ | .stb _ _ _ | .stdw _ _ _
  | .stxw _ _ _ | .stxh _ _ _ | .stxb _ _ _ | .stxdw _ _ _
  | .addImm _ _ | .addReg _ _ | .subImm _ _ | .subReg _ _
  | .orImm _ _ | .orReg _ _ | .andImm _ _ | .andReg _ _
  | .lshImm _ _ | .lshReg _ _ | .rshImm _ _ | .rshReg _ _
  | .xorImm _ _ | .xorReg _ _ | .movImm _ _ | .movReg _ _
  | .ashImm _ _ | .ashReg _ _ | .be _ _ | .uhmul64Imm _ _
  | .uhmul64Reg _ _ | .udiv32Imm _ _ | .udiv32Reg _ _ | .udiv64Imm _ _
  | .udiv64Reg _ _ | .urem32Imm _ _ | .urem32Reg _ _ | .urem64Imm _ _
  | .urem64Reg _ _ | .lmul32Imm _ _ | .lmul32Reg _ _ | .lmul64Imm _ _
  | .lmul64Reg _ _ | .shmul64Imm _ _ | .shmul64Reg _ _ | .sdiv32Imm _ _
  | .sdiv32Reg _ _ | .sdiv64Imm _ _ | .sdiv64Reg _ _ | .srem32Imm _ _
  | .srem32Reg _ _ | .srem64Imm _ _ | .srem64Reg _ _ | .add64Imm _ _
  | .add64Reg _ _ | .sub64Imm _ _ | .sub64Reg _ _ | .or64Imm _ _
  | .or64Reg _ _ | .and64Imm _ _ | .and64Reg _ _ | .lsh64Imm _ _
  | .lsh64Reg _ _ | .rsh64Imm _ _ | .rsh64Reg _ _ | .xor64Imm _ _
  | .xor64Reg _ _ | .mov64Imm _ _ | .mov64Reg _ _ | .ash64Imm _ _
  | .ash64Reg _ _ | .hor64 _ _ => true
  | .ja _ | .jeqImm _ _ _ | .jeqReg _ _ _ | .jgtImm _ _ _
  | .jgtReg _ _ _ | .jgeImm _ _ _ | .jgeReg _ _ _ | .jsetImm _ _ _
  | .jsetReg _ _ _ | .jneImm _ _ _ | .jneReg _ _ _ | .jsgtImm _ _ _
  | .jsgtReg _ _ _ | .jsgeImm _ _ _ | .jsgeReg _ _ _ | .call _
  | .callx _ | .exit | .jltImm _ _ _ | .jltReg _ _ _
  | .jleImm _ _ _ | .jleReg _ _ _ | .jsltImm _ _ _ | .jsltReg _ _ _
  | .jsleImm _ _ _ | .jsleReg _ _ _ => false

/-- The panics an instruction can raise of its own, without the one of a sequential advance (R263). -/
def ownPanic (i : Instr) (p : Panic) : Bool :=
  match i with
  -- classes 4 and 7, multiplications
  | .addImm _ _ | .addReg _ _ | .subImm _ _ | .subReg _ _
  | .orImm _ _ | .orReg _ _ | .andImm _ _ | .andReg _ _
  | .lshImm _ _ | .lshReg _ _ | .rshImm _ _ | .rshReg _ _
  | .xorImm _ _ | .xorReg _ _ | .movImm _ _ | .movReg _ _
  | .ashImm _ _ | .ashReg _ _ | .be _ _ | .uhmul64Imm _ _
  | .uhmul64Reg _ _ | .lmul32Imm _ _ | .lmul32Reg _ _ | .lmul64Imm _ _
  | .lmul64Reg _ _ | .shmul64Imm _ _ | .shmul64Reg _ _ | .add64Imm _ _
  | .add64Reg _ _ | .sub64Imm _ _ | .sub64Reg _ _ | .or64Imm _ _
  | .or64Reg _ _ | .and64Imm _ _ | .and64Reg _ _ | .lsh64Imm _ _
  | .lsh64Reg _ _ | .rsh64Imm _ _ | .rsh64Reg _ _ | .xor64Imm _ _
  | .xor64Reg _ _ | .mov64Imm _ _ | .mov64Reg _ _ | .ash64Imm _ _
  | .ash64Reg _ _ | .hor64 _ _ => false
  -- unsigned divisions and remainders
  | .udiv32Imm _ _ | .udiv32Reg _ _ | .udiv64Imm _ _ | .udiv64Reg _ _
  | .urem32Imm _ _ | .urem32Reg _ _ | .urem64Imm _ _ | .urem64Reg _ _ => match p with | .divisionByZero _ => true | _ => false
  -- signed divisions and remainders
  | .sdiv32Imm _ _ | .sdiv32Reg _ _ | .sdiv64Reg _ _ | .srem32Imm _ _
  | .srem32Reg _ _ | .srem64Reg _ _ => match p with | .divisionByZero _ | .negativeOverflow _ => true | _ => false
  -- `sdiv64 dst, imm`, `srem64 dst, imm`: `NegativeOverflow` cannot occur (R162)
  | .sdiv64Imm _ _ | .srem64Imm _ _ => match p with | .divisionByZero _ => true | _ => false
  -- loads
  | .ldxw _ _ _ | .ldxh _ _ _ | .ldxb _ _ _ | .ldxdw _ _ _ => match p with | .memoryOutOfBounds _ _ _ .load => true | _ => false
  -- stores
  | .stw _ _ _ | .sth _ _ _ | .stb _ _ _ | .stdw _ _ _
  | .stxw _ _ _ | .stxh _ _ _ | .stxb _ _ _ | .stxdw _ _ _ => match p with | .memoryOutOfBounds _ _ _ .store | .accessViolation .. => true | _ => false
  -- jumps
  | .ja _ | .jeqImm _ _ _ | .jeqReg _ _ _ | .jgtImm _ _ _
  | .jgtReg _ _ _ | .jgeImm _ _ _ | .jgeReg _ _ _ | .jsetImm _ _ _
  | .jsetReg _ _ _ | .jneImm _ _ _ | .jneReg _ _ _ | .jsgtImm _ _ _
  | .jsgtReg _ _ _ | .jsgeImm _ _ _ | .jsgeReg _ _ _ | .jltImm _ _ _
  | .jltReg _ _ _ | .jleImm _ _ _ | .jleReg _ _ _ | .jsltImm _ _ _
  | .jsltReg _ _ _ | .jsleImm _ _ _ | .jsleReg _ _ _ => match p with | .targetOutOfBounds .. => true | _ => false
  -- calls
  | .call _ | .callx _ => match p with | .stackOverflow _ | .targetOutOfBounds .. => true | _ => false
  -- `exit`
  | .exit => false

/-- The panics an instruction can raise (R263): its own, and for the sequential ones `TargetOutOfBounds` when it is the
last of its function. -/
def canRaise (i : Instr) (p : Panic) : Bool :=
  ownPanic i p || (isSequential i && match p with | .targetOutOfBounds .. => true | _ => false)

/-- Whether the current function goes on after `pc`: the condition under which a sequential advance completes (R28,
R222 (c)). -/
def canAdvance (s : State) : Bool :=
  match fnAt s.params s.pc with
  | some f => decide (s.pc + 1 < f.stop)
  | none => false

/-! ## Well-formed programs (R297) -/

/-- The instruction in a slot of the text, if the slot's word is valid (R297 (a)). -/
def instrAt (p : Params) (slot : Nat) : Option Instr :=
  match p.text[slot]? with
  | some w => (decode p.strictUnusedFields w).toOption
  | none => none

/-- Whether a slot lies inside the function, as a mathematical integer. -/
def insideFn (f : FnRange) (t : Int) : Bool := decide ((f.start : Int) ≤ t) && decide (t < f.stop)

/-- R297 (b) for one slot: the target of a jump lies in its function, that of a `call` in the text. -/
def targetOk (p : Params) (slot : Nat) (i : Instr) : Bool :=
  let inFn (off : Off) : Bool :=
    match fnAt p slot with
    | some f => insideFn f (targetSlot slot off)
    | none => false
  match i with
  | .ja off | .jeqImm _ _ off | .jeqReg _ _ off | .jgtImm _ _ off
  | .jgtReg _ _ off | .jgeImm _ _ off | .jgeReg _ _ off | .jsetImm _ _ off
  | .jsetReg _ _ off | .jneImm _ _ off | .jneReg _ _ off | .jsgtImm _ _ off
  | .jsgtReg _ _ off | .jsgeImm _ _ off | .jsgeReg _ _ off | .jltImm _ _ off
  | .jltReg _ _ off | .jleImm _ _ off | .jleReg _ _ off | .jsltImm _ _ off
  | .jsltReg _ _ off | .jsleImm _ _ off | .jsleReg _ _ off => inFn off
  | .call off => insideFn ⟨0, p.text.length⟩ (targetSlot slot off)
  | .ldxw _ _ _ | .ldxh _ _ _ | .ldxb _ _ _ | .ldxdw _ _ _
  | .stw _ _ _ | .sth _ _ _ | .stb _ _ _ | .stdw _ _ _
  | .stxw _ _ _ | .stxh _ _ _ | .stxb _ _ _ | .stxdw _ _ _
  | .addImm _ _ | .addReg _ _ | .subImm _ _ | .subReg _ _
  | .orImm _ _ | .orReg _ _ | .andImm _ _ | .andReg _ _
  | .lshImm _ _ | .lshReg _ _ | .rshImm _ _ | .rshReg _ _
  | .xorImm _ _ | .xorReg _ _ | .movImm _ _ | .movReg _ _
  | .ashImm _ _ | .ashReg _ _ | .be _ _ | .uhmul64Imm _ _
  | .uhmul64Reg _ _ | .udiv32Imm _ _ | .udiv32Reg _ _ | .udiv64Imm _ _
  | .udiv64Reg _ _ | .urem32Imm _ _ | .urem32Reg _ _ | .urem64Imm _ _
  | .urem64Reg _ _ | .lmul32Imm _ _ | .lmul32Reg _ _ | .lmul64Imm _ _
  | .lmul64Reg _ _ | .shmul64Imm _ _ | .shmul64Reg _ _ | .sdiv32Imm _ _
  | .sdiv32Reg _ _ | .sdiv64Imm _ _ | .sdiv64Reg _ _ | .srem32Imm _ _
  | .srem32Reg _ _ | .srem64Imm _ _ | .srem64Reg _ _ | .add64Imm _ _
  | .add64Reg _ _ | .sub64Imm _ _ | .sub64Reg _ _ | .or64Imm _ _
  | .or64Reg _ _ | .and64Imm _ _ | .and64Reg _ _ | .lsh64Imm _ _
  | .lsh64Reg _ _ | .rsh64Imm _ _ | .rsh64Reg _ _ | .xor64Imm _ _
  | .xor64Reg _ _ | .mov64Imm _ _ | .mov64Reg _ _ | .ash64Imm _ _
  | .ash64Reg _ _ | .hor64 _ _ | .callx _ | .exit => true

/-- Whether an instruction may end a function (R250, R297 (c)). -/
def endsFunction (i : Instr) : Bool :=
  match i with
  | .ja _ | .exit => true
  | .ldxw _ _ _ | .ldxh _ _ _ | .ldxb _ _ _ | .ldxdw _ _ _
  | .stw _ _ _ | .sth _ _ _ | .stb _ _ _ | .stdw _ _ _
  | .stxw _ _ _ | .stxh _ _ _ | .stxb _ _ _ | .stxdw _ _ _
  | .addImm _ _ | .addReg _ _ | .subImm _ _ | .subReg _ _
  | .orImm _ _ | .orReg _ _ | .andImm _ _ | .andReg _ _
  | .lshImm _ _ | .lshReg _ _ | .rshImm _ _ | .rshReg _ _
  | .xorImm _ _ | .xorReg _ _ | .movImm _ _ | .movReg _ _
  | .ashImm _ _ | .ashReg _ _ | .be _ _ | .uhmul64Imm _ _
  | .uhmul64Reg _ _ | .udiv32Imm _ _ | .udiv32Reg _ _ | .udiv64Imm _ _
  | .udiv64Reg _ _ | .urem32Imm _ _ | .urem32Reg _ _ | .urem64Imm _ _
  | .urem64Reg _ _ | .lmul32Imm _ _ | .lmul32Reg _ _ | .lmul64Imm _ _
  | .lmul64Reg _ _ | .shmul64Imm _ _ | .shmul64Reg _ _ | .sdiv32Imm _ _
  | .sdiv32Reg _ _ | .sdiv64Imm _ _ | .sdiv64Reg _ _ | .srem32Imm _ _
  | .srem32Reg _ _ | .srem64Imm _ _ | .srem64Reg _ _ | .add64Imm _ _
  | .add64Reg _ _ | .sub64Imm _ _ | .sub64Reg _ _ | .or64Imm _ _
  | .or64Reg _ _ | .and64Imm _ _ | .and64Reg _ _ | .lsh64Imm _ _
  | .lsh64Reg _ _ | .rsh64Imm _ _ | .rsh64Reg _ _ | .xor64Imm _ _
  | .xor64Reg _ _ | .mov64Imm _ _ | .mov64Reg _ _ | .ash64Imm _ _
  | .ash64Reg _ _ | .hor64 _ _ | .jeqImm _ _ _ | .jeqReg _ _ _
  | .jgtImm _ _ _ | .jgtReg _ _ _ | .jgeImm _ _ _ | .jgeReg _ _ _
  | .jsetImm _ _ _ | .jsetReg _ _ _ | .jneImm _ _ _ | .jneReg _ _ _
  | .jsgtImm _ _ _ | .jsgtReg _ _ _ | .jsgeImm _ _ _ | .jsgeReg _ _ _
  | .call _ | .callx _ | .jltImm _ _ _ | .jltReg _ _ _
  | .jleImm _ _ _ | .jleReg _ _ _ | .jsltImm _ _ _ | .jsltReg _ _ _
  | .jsleImm _ _ _ | .jsleReg _ _ _ => false

/-- `WellFormed(Text, Functions)` (R297). -/
def programWellFormed (p : Params) : Bool :=
  ((List.range p.text.length).all fun slot =>
    match instrAt p slot with
    | some i => targetOk p slot i
    | none => false) &&
  p.functions.all fun f =>
    match instrAt p (f.stop - 1) with
    | some i => endsFunction i
    | none => false

/-! ## Invariants -/

/-- The data memory is in canonical form and holds nothing at an unmapped address, and the call stack is within its
capacity (R30, R32). It holds at `State.reset` and at every launch state. -/
def State.Canonical (s : State) : Prop :=
  Memory.wf s.mem = true ∧ (∀ c ∈ s.mem, mapped s.params.memMap c.1 = true) ∧ s.cs.length ≤ s.params.maxCallDepth

/-- The parameters satisfy the launch conditions, `pc` names a slot of the text and so does every return location
(R291, R294, R222). It holds at every launch state. -/
def State.Live (s : State) : Prop :=
  paramsValid s.params = true ∧ s.pc < s.params.text.length ∧ ∀ f ∈ s.cs, f.ret < s.params.text.length

/-- Every register holds a value. -/
def State.AllWritten (s : State) : Prop := ∀ r : Reg, s.reg r ≠ .unwritten

end Sys2Proof.Machine
end

