-- ==== Sys2Proof/Certificates/Slice0/Obligations.lean ====
section
/-! DEFINITION. The statements for the provers. The vocabulary first (`Sys2Proof.Claim`): the mathematical readings of
00_scope.md R7 and the tables of 30_encoding.md and 10_state.md written a second time, without the model's functions, so
that a statement says what the rule says. Then the statements: encoding, the machine as a whole, arithmetic, memory,
control flow, frames. -/

namespace Sys2Proof.Claim
open Sys2Proof Sys2Proof.Machine

/-! ## Vocabulary: numbers -/

/-- `sgn_n(v)`: the signed reading of a number below `2^n` (R7). -/
def sgn (n v : Nat) : Int := if v < 2 ^ (n - 1) then v else (v : Int) - 2 ^ n

/-- `trunc_32` of a 64-bit number (R7). -/
def low32 (a : Word) : Nat := a.toNat % 2 ^ 32

/-- `sext_64(imm)` as a number (R7). -/
def sextNat (imm : Imm) : Nat := if imm.toNat < 2 ^ 31 then imm.toNat else imm.toNat + (2 ^ 64 - 2 ^ 32)

/-- The widened immediate of R131 and R210 as a number. -/
def widened (e : Ext) (imm : Imm) : Nat :=
  match e with
  | .zext => imm.toNat
  | .sext => sextNat imm

/-- `(n) mod 2^64` of a mathematical integer, as a register value (R7). -/
def wordOf (n : Int) : Word := BitVec.ofNat 64 (n % 2 ^ 64).toNat

/-- `zext_64((n) mod 2^32)` of a mathematical integer (R7). -/
def wordOf32 (n : Int) : Word := BitVec.ofNat 64 (n % 2 ^ 32).toNat

/-- `bswap_(8n)` of the low `n` bytes of a number: byte `k` goes to place `n - 1 - k` (R7). -/
def swapped (n v : Nat) : Nat := ∑ k ∈ Finset.range n, (v / 256 ^ k % 256) * 256 ^ (n - 1 - k)

/-- The 128-bit product of the source's expressions, bits 127 to 64 (R164, R178). -/
def upperHalf (a b : BitVec 128) : Word := (a * b).extractLsb' 64 64

/-! ## Vocabulary: states -/

/-- What an instruction that writes one register and advances leaves (R28): the register and `pc`, and nothing else. -/
def afterWrite (s : State) (dst : Reg) (v : Word) : State :=
  { s with regs := s.regs.set dst.val (.holds v) dst.isLt, pc := s.pc + 1 }

/-- What raising a panic leaves (R262): the status, and nothing else. -/
def afterPanic (s : State) (p : Panic) : State := { s with status := .faulted p }

/-- `i` has the opcode byte `opc`, and completes with `x[dst] <- v` in every state that can advance; it reads no
register. -/
def Writes (opc : BitVec 8) (i : Instr) (dst : Reg) (v : Word) : Prop :=
  i.opcode = opc ∧ ∀ s : State, canAdvance s = true → exec i s = .next (afterWrite s dst v)

/-- `i` has the opcode byte `opc`, reads `x[src]` alone and completes with `x[dst] <- f(x[src])`. -/
def ComputesFromSrc (opc : BitVec 8) (i : Instr) (dst src : Reg) (f : Word → Word) : Prop :=
  i.opcode = opc ∧ ∀ (s : State) (b : Word), canAdvance s = true → s.reg src = .holds b →
    exec i s = .next (afterWrite s dst (f b))

/-- `i` has the opcode byte `opc`, reads `x[dst]` and completes with `x[dst] <- f(x[dst])`, where `f` may depend on the
parameters. -/
def ComputesFromDst (opc : BitVec 8) (i : Instr) (dst : Reg) (f : Params → Word → Word) : Prop :=
  i.opcode = opc ∧ ∀ (s : State) (a : Word), canAdvance s = true → s.reg dst = .holds a →
    exec i s = .next (afterWrite s dst (f s.params a))

/-- `i` has the opcode byte `opc`, reads `x[dst]` and `x[src]` and completes with `x[dst] <- f(x[dst], x[src])`;
`dst = src` is allowed. -/
def ComputesFromBoth (opc : BitVec 8) (i : Instr) (dst src : Reg) (f : Params → Word → Word → Word) : Prop :=
  i.opcode = opc ∧ ∀ (s : State) (a b : Word), canAdvance s = true → s.reg dst = .holds a → s.reg src = .holds b →
    exec i s = .next (afterWrite s dst (f s.params a b))

/-- A quotient or remainder of `x[dst]` by the divisor `d`: a zero divisor panics, an overflow panics, and otherwise `i`
completes with `x[dst] <- f(x[dst])`. The panics need no room to advance (R264). -/
def DividesDst (opc : BitVec 8) (i : Instr) (dst : Reg) (d : Int) (overflow : Word → Prop) (f : Word → Word) : Prop :=
  i.opcode = opc ∧ ∀ (s : State) (a : Word), s.reg dst = .holds a →
    (d = 0 → exec i s = .next (afterPanic s (.divisionByZero s.pc))) ∧
    (d ≠ 0 → overflow a → exec i s = .next (afterPanic s (.negativeOverflow s.pc))) ∧
    (d ≠ 0 → ¬ overflow a → canAdvance s = true → exec i s = .next (afterWrite s dst (f a)))

/-- The same with the divisor `d(x[src])`. -/
def DividesBoth (opc : BitVec 8) (i : Instr) (dst src : Reg) (d : Word → Int) (overflow : Word → Word → Prop)
    (f : Word → Word → Word) : Prop :=
  i.opcode = opc ∧ ∀ (s : State) (a b : Word), s.reg dst = .holds a → s.reg src = .holds b →
    (d b = 0 → exec i s = .next (afterPanic s (.divisionByZero s.pc))) ∧
    (d b ≠ 0 → overflow a b → exec i s = .next (afterPanic s (.negativeOverflow s.pc))) ∧
    (d b ≠ 0 → ¬ overflow a b → canAdvance s = true → exec i s = .next (afterWrite s dst (f a b)))

/-- Address `a` is mapped: inside some region (R32, R40). -/
def Mapped (memMap : List Region) (a : Nat) : Prop := ∃ r ∈ memMap, r.base ≤ a ∧ a < r.base + r.len

/-- Address `a` lies in a region with `writable = false` (R47). -/
def InReadOnly (memMap : List Region) (a : Nat) : Prop :=
  ∃ r ∈ memMap, (r.base ≤ a ∧ a < r.base + r.len) ∧ r.writable = false

/-- All `n` bytes from `a` are mapped, and they do not run past the top of the address space (R40, R46). -/
def AllMapped (memMap : List Region) (a n : Nat) : Prop := a + n ≤ 2 ^ 64 ∧ ∀ k < n, Mapped memMap (a + k)

/-- The bytes of `m'` from `a` up are the low `n` bytes of `v`, the least significant first, and every other byte is that
of `m` (R42, R43). -/
def Stored (m m' : Memory) (a n v : Nat) : Prop :=
  (∀ k < n, (readByte m' (a + k)).toNat = v / 256 ^ k % 256) ∧
  ∀ x, (x < a ∨ a + n ≤ x) → readByte m' x = readByte m x

/-- The number whose bytes lie from address `a` up, the byte at the lowest address the least significant (R41, R43). -/
def littleEndian (m : Memory) (a n : Nat) : Nat := ∑ k ∈ Finset.range n, (readByte m (a + k)).toNat * 256 ^ k

/-- What a store instruction does with the low bytes of `v` at the effective address `ea` (R200, R207, R48): the two panics in
their order, or the bytes and the advance, nothing else. -/
def StoresAt (i : Instr) (s : State) (w : Width) (ea : Word) (v : Nat) : Prop :=
  (¬ AllMapped s.params.memMap ea.toNat w.bytes →
    exec i s = .next (afterPanic s (.memoryOutOfBounds s.pc ea w.bytes .store))) ∧
  (AllMapped s.params.memMap ea.toNat w.bytes → (∃ k < w.bytes, InReadOnly s.params.memMap (ea.toNat + k)) →
    exec i s = .next (afterPanic s (.accessViolation s.pc ea w.bytes))) ∧
  (AllMapped s.params.memMap ea.toNat w.bytes → (∀ k < w.bytes, ¬ InReadOnly s.params.memMap (ea.toNat + k)) →
    canAdvance s = true → Memory.wf s.mem = true →
    ∃ m, exec i s = .next { s with mem := m, pc := s.pc + 1 } ∧ Stored s.mem m ea.toNat w.bytes v ∧
      Memory.wf m = true)

/-- The target location (R221): `pc + 1 + sgn_16(off)`, a mathematical integer. -/
def target (s : State) (off : Off) : Int := (s.pc : Int) + 1 + sgn 16 off.toNat

/-! ## Vocabulary: the instructions by shape -/

/-- The four loads (R203 to R206). -/
def loadOf (w : Width) (dst src : Reg) (off : Off) : Instr :=
  match w with
  | .word => .ldxw dst src off
  | .half => .ldxh dst src off
  | .byte => .ldxb dst src off
  | .double => .ldxdw dst src off

/-- The four stores of an immediate (R207 to R210). -/
def storeImmOf (w : Width) (dst : Reg) (off : Off) (imm : Imm) : Instr :=
  match w with
  | .word => .stw dst off imm
  | .half => .sth dst off imm
  | .byte => .stb dst off imm
  | .double => .stdw dst off imm

/-- The four stores of a register (R211 to R214). -/
def storeRegOf (w : Width) (dst : Reg) (off : Off) (src : Reg) : Instr :=
  match w with
  | .word => .stxw dst off src
  | .half => .stxh dst off src
  | .byte => .stxb dst off src
  | .double => .stxdw dst off src

/-- The eleven conditions of the jumps (R225 to R246). -/
inductive Cond where
  | eq | gt | ge | set | ne | sgt | sge | lt | le | slt | sle
  deriving DecidableEq, Repr

/-- The condition on two 64-bit numbers, as the rules read them: unsigned, or signed by `sgn_64`. -/
def Cond.holds : Cond → Nat → Nat → Prop
  | .eq, a, b => a = b
  | .gt, a, b => a > b
  | .ge, a, b => a ≥ b
  | .set, a, b => a &&& b ≠ 0
  | .ne, a, b => a ≠ b
  | .sgt, a, b => sgn 64 a > sgn 64 b
  | .sge, a, b => sgn 64 a ≥ sgn 64 b
  | .lt, a, b => a < b
  | .le, a, b => a ≤ b
  | .slt, a, b => sgn 64 a < sgn 64 b
  | .sle, a, b => sgn 64 a ≤ sgn 64 b

/-- The conditional jumps with an immediate. -/
def jumpImmOf (c : Cond) (dst : Reg) (imm : Imm) (off : Off) : Instr :=
  match c with
  | .eq => .jeqImm dst imm off
  | .gt => .jgtImm dst imm off
  | .ge => .jgeImm dst imm off
  | .set => .jsetImm dst imm off
  | .ne => .jneImm dst imm off
  | .sgt => .jsgtImm dst imm off
  | .sge => .jsgeImm dst imm off
  | .lt => .jltImm dst imm off
  | .le => .jleImm dst imm off
  | .slt => .jsltImm dst imm off
  | .sle => .jsleImm dst imm off

/-- The opcode byte of the immediate form of a conditional jump (R225 to R245); the register form's is 8 higher (R65). -/
def Cond.opcode : Cond → BitVec 8
  | .eq => 0x15
  | .gt => 0x25
  | .ge => 0x35
  | .set => 0x45
  | .ne => 0x55
  | .sgt => 0x65
  | .sge => 0x75
  | .lt => 0xA5
  | .le => 0xB5
  | .slt => 0xC5
  | .sle => 0xD5

/-- The conditional jumps with a register. -/
def jumpRegOf (c : Cond) (dst src : Reg) (off : Off) : Instr :=
  match c with
  | .eq => .jeqReg dst src off
  | .gt => .jgtReg dst src off
  | .ge => .jgeReg dst src off
  | .set => .jsetReg dst src off
  | .ne => .jneReg dst src off
  | .sgt => .jsgtReg dst src off
  | .sge => .jsgeReg dst src off
  | .lt => .jltReg dst src off
  | .le => .jleReg dst src off
  | .slt => .jsltReg dst src off
  | .sle => .jsleReg dst src off

/-- The template of the conditional jumps (R223) on an outcome `taken` of the condition: the target is tested first, taken
or not; then the jump, or the fall-through and its test. -/
def JumpTemplate (i : Instr) (s : State) (f : FnRange) (off : Off) (taken : Prop) : Prop :=
  ((target s off < f.start ∨ (f.stop : Int) ≤ target s off) →
    exec i s = .next (afterPanic s (.targetOutOfBounds s.pc (.slot (target s off))))) ∧
  ((f.start : Int) ≤ target s off → target s off < f.stop →
    (taken → exec i s = .next { s with pc := (target s off).toNat }) ∧
    (¬ taken → s.pc + 1 < f.stop → exec i s = .next { s with pc := s.pc + 1 }) ∧
    (¬ taken → f.stop ≤ s.pc + 1 →
      exec i s = .next (afterPanic s (.targetOutOfBounds s.pc (.slot (s.pc + 1))))))

/-- The law of R188 (a) and (b) for a quotient instruction and the remainder instruction of the same width, signedness and
operands: in a state that can advance, with dividend `a` and divisor `d` not zero and no overflow, both complete, and what
they write to `dst`, read by `val`, are the quotient and the remainder of one division. (A dividend that is not negative
has a remainder that is not negative.) -/
def BelongTogether (width : Nat) (quot rem : Instr) (dst : Reg) (s : State) (a d : Int) (val : Word → Int) : Prop :=
  canAdvance s = true → d ≠ 0 → ¬ (d = -1 ∧ a = -2 ^ (width - 1)) → ∃ q r : Word,
    exec quot s = .next (afterWrite s dst q) ∧ exec rem s = .next (afterWrite s dst r) ∧
    a = d * val q + val r ∧ (val r).natAbs < d.natAbs ∧ (val r = 0 ∨ (val r < 0 ↔ a < 0))

/-- `s` under another list of functions. -/
def withFunctions (s : State) (fs : List FnRange) : State := { s with params := { s.params with functions := fs } }

/-- The sixteen quotient and remainder instructions (R161). -/
inductive DivForm where
  | udiv32Imm | udiv64Imm | urem32Imm | urem64Imm | sdiv32Imm | sdiv64Imm | srem32Imm | srem64Imm
  | udiv32Reg | udiv64Reg | urem32Reg | urem64Reg | sdiv32Reg | sdiv64Reg | srem32Reg | srem64Reg
  deriving DecidableEq, Repr

/-- The instruction of a form. -/
def DivForm.instr (f : DivForm) (dst src : Reg) (imm : Imm) : Instr :=
  match f with
  | .udiv32Imm => .udiv32Imm dst imm
  | .udiv64Imm => .udiv64Imm dst imm
  | .urem32Imm => .urem32Imm dst imm
  | .urem64Imm => .urem64Imm dst imm
  | .sdiv32Imm => .sdiv32Imm dst imm
  | .sdiv64Imm => .sdiv64Imm dst imm
  | .srem32Imm => .srem32Imm dst imm
  | .srem64Imm => .srem64Imm dst imm
  | .udiv32Reg => .udiv32Reg dst src
  | .udiv64Reg => .udiv64Reg dst src
  | .urem32Reg => .urem32Reg dst src
  | .urem64Reg => .urem64Reg dst src
  | .sdiv32Reg => .sdiv32Reg dst src
  | .sdiv64Reg => .sdiv64Reg dst src
  | .srem32Reg => .srem32Reg dst src
  | .srem64Reg => .srem64Reg dst src

/-- The divisor the form uses: `imm`, the low half of `x[src]`, or all of `x[src]` (R161). -/
def DivForm.divisor (f : DivForm) (b : Word) (imm : Imm) : Nat :=
  match f with
  | .udiv32Imm | .udiv64Imm | .urem32Imm | .urem64Imm | .sdiv32Imm | .sdiv64Imm | .srem32Imm | .srem64Imm => imm.toNat
  | .udiv32Reg | .urem32Reg | .sdiv32Reg | .srem32Reg => low32 b
  | .udiv64Reg | .urem64Reg | .sdiv64Reg | .srem64Reg => b.toNat

/-- When the form overflows (R162): the divisor is -1 and the dividend the most negative value of the operation's width. The
64-bit immediate forms never do. -/
def DivForm.overflows (f : DivForm) (a b : Word) (imm : Imm) : Prop :=
  match f with
  | .sdiv32Imm | .srem32Imm => low32 a = 0x80000000 ∧ imm = 0xFFFFFFFF
  | .sdiv32Reg | .srem32Reg => low32 a = 0x80000000 ∧ low32 b = 0xFFFFFFFF
  | .sdiv64Reg | .srem64Reg => a = 0x8000000000000000 ∧ b = 0xFFFFFFFFFFFFFFFF
  | .sdiv64Imm | .srem64Imm | .udiv32Imm | .udiv64Imm | .urem32Imm | .urem64Imm | .udiv32Reg | .udiv64Reg
  | .urem32Reg | .urem64Reg => False

/-! ## Vocabulary: the tables -/

/-- The 156 reserved opcode bytes, class by class (R67). -/
def reservedBytes : List Nat :=
  [0x00, 0x08, 0x10, 0x18, 0x20, 0x28, 0x30, 0x38, 0x40, 0x48, 0x50, 0x58, 0x60, 0x68, 0x70, 0x78,
    0x80, 0x88, 0x90, 0x98, 0xA0, 0xA8, 0xB0, 0xB8, 0xC0, 0xC8, 0xD0, 0xD8, 0xE0, 0xE8, 0xF0, 0xF8] ++
  [0x01, 0x09, 0x11, 0x19, 0x21, 0x29, 0x31, 0x39, 0x41, 0x49, 0x51, 0x59, 0x81, 0x89, 0x91, 0x99,
    0xA1, 0xA9, 0xB1, 0xB9, 0xC1, 0xC9, 0xD1, 0xD9, 0xE1, 0xE9, 0xF1, 0xF9] ++
  [0x02, 0x0A, 0x12, 0x1A, 0x22, 0x2A, 0x32, 0x3A, 0x42, 0x4A, 0x52, 0x5A, 0x82, 0x8A, 0x92, 0x9A,
    0xA2, 0xAA, 0xB2, 0xBA, 0xC2, 0xCA, 0xD2, 0xDA, 0xE2, 0xEA, 0xF2, 0xFA] ++
  [0x03, 0x0B, 0x13, 0x1B, 0x23, 0x2B, 0x33, 0x3B, 0x43, 0x4B, 0x53, 0x5B, 0x83, 0x8B, 0x93, 0x9B,
    0xA3, 0xAB, 0xB3, 0xBB, 0xC3, 0xCB, 0xD3, 0xDB, 0xE3, 0xEB, 0xF3, 0xFB] ++
  [0x24, 0x2C, 0x34, 0x3C, 0x84, 0x8C, 0x94, 0x9C, 0xD4, 0xE4, 0xEC, 0xF4, 0xFC] ++
  [0x0D, 0x9D, 0xE5, 0xED, 0xF5, 0xFD] ++
  [0x06, 0x0E, 0x16, 0x1E, 0x26, 0x2E, 0xA6, 0xAE] ++
  [0x27, 0x2F, 0x37, 0x3F, 0x87, 0x8F, 0x97, 0x9F, 0xD7, 0xDF, 0xE7, 0xEF, 0xFF]

/-- The opcode bytes of the immediate forms whose `dst` is `r0` to `r9` and whose `src` is unused: classes 4, 6 and 7
without `add64 dst, imm`, and the conditional jumps (R26). -/
def dstOnlyOpcodes : List Nat :=
  [0x04, 0x14, 0x15, 0x17, 0x25, 0x35, 0x36, 0x44, 0x45, 0x46, 0x47, 0x54, 0x55, 0x56, 0x57, 0x64,
   0x65, 0x66, 0x67, 0x74, 0x75, 0x76, 0x77, 0x86, 0x96, 0xA4, 0xA5, 0xA7, 0xB4, 0xB5, 0xB6, 0xB7,
   0xC4, 0xC5, 0xC6, 0xC7, 0xD5, 0xD6, 0xDC, 0xE6, 0xF6, 0xF7]

/-- The opcode bytes of the forms with `dst` in `r0` to `r9` and `src` in `r0` to `r10`: the register forms of classes 4, 6
and 7, the loads, the conditional jumps (R26). -/
def dstSrcOpcodes : List Nat :=
  [0x0C, 0x0F, 0x1C, 0x1D, 0x1F, 0x2D, 0x3D, 0x3E, 0x4C, 0x4D, 0x4E, 0x4F, 0x5C, 0x5D, 0x5E, 0x5F,
   0x61, 0x69, 0x6C, 0x6D, 0x6E, 0x6F, 0x71, 0x79, 0x7C, 0x7D, 0x7E, 0x7F, 0x8E, 0x9E, 0xAC, 0xAD,
   0xAF, 0xBC, 0xBD, 0xBE, 0xBF, 0xCC, 0xCD, 0xCE, 0xCF, 0xDD, 0xDE, 0xEE, 0xFE]

/-- The opcode bytes of the stores of an immediate (R26). -/
def storeImmOpcodes : List Nat := [0x62, 0x6A, 0x72, 0x7A]

/-- The opcode bytes of the stores of a register (R26). -/
def storeRegOpcodes : List Nat := [0x63, 0x6B, 0x73, 0x7B]

/-- The opcode bytes of `ja`, `call`, `exit`, which use no register field (R26). -/
def noRegisterOpcodes : List Nat := [0x05, 0x85, 0x95]

/-- The register fields of a word hold numbers that R26 allows: one clause for each row of its table that uses a field. -/
def RegistersAllowed (w : Word) : Prop :=
  let opc := (opcField w).toNat
  let dst := (dstField w).toNat
  let src := (srcField w).toNat
  (opc = 0x07 → dst ≤ 9 ∨ dst = 11) ∧
  (opc ∈ dstOnlyOpcodes → dst ≤ 9) ∧
  (opc ∈ dstSrcOpcodes → dst ≤ 9 ∧ src ≤ 10) ∧
  (opc ∈ storeImmOpcodes → dst ≤ 10) ∧
  (opc ∈ storeRegOpcodes → dst ≤ 10 ∧ src ≤ 10) ∧
  (opc = 0x8D → src ≤ 9)

/-- The register fields that the table of R26 marks unused hold 0. -/
def UnusedRegistersZero (w : Word) : Prop :=
  let opc := (opcField w).toNat
  (opc = 0x07 ∨ opc ∈ dstOnlyOpcodes ∨ opc ∈ storeImmOpcodes → srcField w = 0) ∧
  (opc = 0x8D → dstField w = 0) ∧
  (opc ∈ noRegisterOpcodes → dstField w = 0 ∧ srcField w = 0)

/-- The `off` field is 0 in every instruction but the loads, the stores, and the jumps and `call` (R66). -/
def UnusedOffsetZero (w : Word) : Prop :=
  let opc := (opcField w).toNat
  opc % 8 = 4 ∨ opc % 8 = 6 ∨ opc % 8 = 7 ∨ opc = 0x8D ∨ opc = 0x95 → offField w = 0

/-- The `imm` field is 0 in every instruction but the immediate forms and the stores of an immediate (R66). -/
def UnusedImmediateZero (w : Word) : Prop :=
  let opc := (opcField w).toNat
  opc ∉ 0x07 :: dstOnlyOpcodes ++ storeImmOpcodes → immField w = 0

/-- The opcode is assigned: one of the 100 of R66, listed here by their rows in R26. -/
def Assigned (w : Word) : Prop :=
  (opcField w).toNat ∈
    0x07 :: 0x8D :: dstOnlyOpcodes ++ dstSrcOpcodes ++ storeImmOpcodes ++ storeRegOpcodes ++ noRegisterOpcodes

/-- A word is valid (R72); `strict` is `STRICT_UNUSED_FIELDS`. -/
def Valid (strict : Bool) (w : Word) : Prop :=
  Assigned w ∧ RegistersAllowed w ∧ (opcField w = 0xDC → immField w = 16 ∨ immField w = 32 ∨ immField w = 64) ∧
  (strict = true → UnusedRegistersZero w ∧ UnusedOffsetZero w ∧ UnusedImmediateZero w)

/-- Two states differ in nothing but the value of `r11`, which both hold. -/
def AgreeButStackPointer (s t : State) : Prop :=
  (∀ r : Reg, r ≠ 11 → s.reg r = t.reg r) ∧ s.reg 11 ≠ .unwritten ∧ t.reg 11 ≠ .unwritten ∧
  s.pc = t.pc ∧ s.cs = t.cs ∧ s.mem = t.mem ∧ s.status = t.status ∧ s.params = t.params

/-- `Functions` partitions the slots `0 .. N-1` into non-empty ranges: every slot lies in exactly one (R31, (1) of
R291). -/
def FunctionsPartition (p : Params) : Prop :=
  (∀ f ∈ p.functions, f.start < f.stop ∧ f.stop ≤ p.text.length) ∧
  ∀ i < p.text.length, (p.functions.filter fun f => f.start ≤ i ∧ i < f.stop).length = 1

/-- The constraints on the host's input, (1), (2), (3) and (5) of R291. (`InitMem` is total by convention, log 5.) -/
def LaunchConditions (p : Params) : Prop :=
  1 ≤ p.text.length ∧ FunctionsPartition p ∧
  p.entry < p.text.length ∧
  (∀ r ∈ p.memMap, 1 ≤ r.len ∧ r.base + r.len ≤ 2 ^ 64) ∧
  p.memMap.Pairwise (fun r q => r.base + r.len ≤ q.base ∨ q.base + q.len ≤ r.base) ∧
  8 ∣ p.textBase.toNat ∧ p.textBase.toNat + 8 * p.text.length ≤ 2 ^ 64

/-- The byte address of no slot: below `TEXT_BASE`, not a multiple of 8 above it, or past the text (R248). -/
def BadTextAddress (p : Params) (a : Word) : Prop :=
  a.toNat < p.textBase.toNat ∨ (a.toNat - p.textBase.toNat) % 8 ≠ 0 ∨
    p.text.length ≤ (a.toNat - p.textBase.toNat) / 8

/-- The opcode bytes of `ja` and of the conditional jumps (R224 to R246). -/
def jumpOpcodes : List Nat :=
  [0x05, 0x15, 0x1D, 0x25, 0x2D, 0x35, 0x3D, 0x45, 0x4D, 0x55, 0x5D, 0x65, 0x6D, 0x75, 0x7D,
   0xA5, 0xAD, 0xB5, 0xBD, 0xC5, 0xCD, 0xD5, 0xDD]

/-- `i + 1 + sgn_16(off)` for the word `w` in slot `i`, a mathematical integer (R221, R297 (b)). -/
def wordTarget (i : Nat) (w : Word) : Int := (i : Int) + 1 + sgn 16 (offField w).toNat

/-- `WellFormed(Text, Functions)`, clauses (a), (b) and (c) of R297, on the words of the text. -/
def TextWellFormed (p : Params) : Prop :=
  (∀ w ∈ p.text, Valid p.strictUnusedFields w) ∧
  (∀ (i : Nat) (w : Word), p.text[i]? = some w →
    ((opcField w).toNat ∈ jumpOpcodes → ∀ f ∈ p.functions, f.start ≤ i → i < f.stop →
      (f.start : Int) ≤ wordTarget i w ∧ wordTarget i w < f.stop) ∧
    (opcField w = 0x85 → 0 ≤ wordTarget i w ∧ wordTarget i w < p.text.length)) ∧
  ∀ f ∈ p.functions, ∃ w, p.text[f.stop - 1]? = some w ∧ (opcField w = 0x05 ∨ opcField w = 0x95)

/-- The panics that remain possible in a well-formed program (R298), with the instruction that `TargetOutOfBounds` can
still come from. -/
def DataDependent (s : State) (p : Panic) : Prop :=
  p = .divisionByZero s.pc ∨ p = .negativeOverflow s.pc ∨ p = .stackOverflow s.pc ∨
  (∃ ea n access, p = .memoryOutOfBounds s.pc ea n access) ∨ (∃ ea n, p = .accessViolation s.pc ea n) ∨
  (∃ src a, instrAt s.params s.pc = some (.callx src) ∧ s.reg src = .holds a ∧ BadTextAddress s.params a ∧
    p = .targetOutOfBounds s.pc (.address a))

/-- The bits an instruction uses: the opcode byte and the fields its row of R66 names. -/
def usedBits : Instr → Word
  | .ldxw _ _ _ | .ldxh _ _ _ | .ldxb _ _ _ | .ldxdw _ _ _ | .stxw _ _ _
  | .stxh _ _ _ | .stxb _ _ _ | .stxdw _ _ _ | .jeqReg _ _ _ | .jgtReg _ _ _
  | .jgeReg _ _ _ | .jsetReg _ _ _ | .jneReg _ _ _ | .jsgtReg _ _ _ | .jsgeReg _ _ _
  | .jltReg _ _ _ | .jleReg _ _ _ | .jsltReg _ _ _ | .jsleReg _ _ _ => 0x00000000FFFFFFFF
  | .stw _ _ _ | .sth _ _ _ | .stb _ _ _ | .stdw _ _ _ | .jeqImm _ _ _
  | .jgtImm _ _ _ | .jgeImm _ _ _ | .jsetImm _ _ _ | .jneImm _ _ _ | .jsgtImm _ _ _
  | .jsgeImm _ _ _ | .jltImm _ _ _ | .jleImm _ _ _ | .jsltImm _ _ _ | .jsleImm _ _ _ => 0xFFFFFFFFFFFF0FFF
  | .addImm _ _ | .subImm _ _ | .orImm _ _ | .andImm _ _ | .lshImm _ _
  | .rshImm _ _ | .xorImm _ _ | .movImm _ _ | .ashImm _ _ | .be _ _
  | .uhmul64Imm _ _ | .udiv32Imm _ _ | .udiv64Imm _ _ | .urem32Imm _ _ | .urem64Imm _ _
  | .lmul32Imm _ _ | .lmul64Imm _ _ | .shmul64Imm _ _ | .sdiv32Imm _ _ | .sdiv64Imm _ _
  | .srem32Imm _ _ | .srem64Imm _ _ | .add64Imm _ _ | .sub64Imm _ _ | .or64Imm _ _
  | .and64Imm _ _ | .lsh64Imm _ _ | .rsh64Imm _ _ | .xor64Imm _ _ | .mov64Imm _ _
  | .ash64Imm _ _ | .hor64 _ _ => 0xFFFFFFFF00000FFF
  | .addReg _ _ | .subReg _ _ | .orReg _ _ | .andReg _ _ | .lshReg _ _
  | .rshReg _ _ | .xorReg _ _ | .movReg _ _ | .ashReg _ _ | .uhmul64Reg _ _
  | .udiv32Reg _ _ | .udiv64Reg _ _ | .urem32Reg _ _ | .urem64Reg _ _ | .lmul32Reg _ _
  | .lmul64Reg _ _ | .shmul64Reg _ _ | .sdiv32Reg _ _ | .sdiv64Reg _ _ | .srem32Reg _ _
  | .srem64Reg _ _ | .add64Reg _ _ | .sub64Reg _ _ | .or64Reg _ _ | .and64Reg _ _
  | .lsh64Reg _ _ | .rsh64Reg _ _ | .xor64Reg _ _ | .mov64Reg _ _ | .ash64Reg _ _ => 0x000000000000FFFF
  | .ja _ | .call _ => 0x00000000FFFF00FF
  | .callx _ => 0x000000000000F0FF
  | .exit => 0x00000000000000FF

end Sys2Proof.Claim

section
open Sys2Proof Sys2Proof.Machine Sys2Proof.Claim

/-! ## Encoding -/

/-- For all fields, the number of the word built from them is opc + dst*2^8 + src*2^12 + off*2^16 + imm*2^32, and every
word is the word of the fields read from it; opc is bits 7..0, dst bits 11..8, src bits 15..12, off bits 31..16, imm
bits 63..32 (R60). -/
def Obligations.WordIsTheSumOfItsFields : Prop :=
  (∀ (opc : BitVec 8) (dst src : BitVec 4) (off : Off) (imm : Imm),
    (mkWord opc dst src off imm).toNat =
      opc.toNat + dst.toNat * 2 ^ 8 + src.toNat * 2 ^ 12 + off.toNat * 2 ^ 16 + imm.toNat * 2 ^ 32) ∧
  ∀ w : Word,
    mkWord (opcField w) (dstField w) (srcField w) (offField w) (immField w) = w ∧
    (opcField w).toNat = w.toNat % 2 ^ 8 ∧ (dstField w).toNat = w.toNat / 2 ^ 8 % 2 ^ 4 ∧
    (srcField w).toNat = w.toNat / 2 ^ 12 % 2 ^ 4 ∧ (offField w).toNat = w.toNat / 2 ^ 16 % 2 ^ 16 ∧
    (immField w).toNat = w.toNat / 2 ^ 32

/-- For every instruction i, all 100 constructors and every operand value: if i is well-formed then decode, with
STRICT_UNUSED_FIELDS true or false, reads i from encode i. (R60, R66, R71, R73.) -/
def Obligations.DecodingUndoesEncoding : Prop :=
  ∀ (strict : Bool) (i : Instr), i.wellFormed = true → decode strict (encode i) = .ok i

/-- For every 64-bit word w: if decode with STRICT_UNUSED_FIELDS true reads i from w, then encode i is w and i is
well-formed. So each valid word has one instruction and each instruction one strict word. (R66, R71, R72, R73.) -/
def Obligations.EncodingUndoesDecoding : Prop :=
  ∀ (w : Word) (i : Instr), decode true w = .ok i → encode i = w ∧ i.wellFormed = true

/-- decode strict w is i if and only if i is well-formed, w agrees with encode i on the opcode byte and the fields the
row of i names, and, when strict, w is encode i. With STRICT_UNUSED_FIELDS false the unused fields play no part. (R66,
R71, R72, R73.) -/
def Obligations.DecodingReadsExactlyTheUsedBits : Prop :=
  ∀ (strict : Bool) (w : Word) (i : Instr),
    decode strict w = .ok i ↔ i.wellFormed = true ∧ w &&& usedBits i = encode i ∧ (strict = true → w = encode i)

/-- The 156 listed bytes are distinct; a word is refused as reserved exactly when its opcode byte is one of them; a
well-formed program (R297) has no such word; a running machine that fetches one faults with InvalidInstruction(pc, word)
and changes nothing else (R67). -/
def Obligations.ReservedOpcodesAreNoInstructions : Prop :=
  reservedBytes.length = 156 ∧ reservedBytes.Nodup ∧
  (∀ (strict : Bool) (w : Word), decode strict w = .error .reservedOpcode ↔ (opcField w).toNat ∈ reservedBytes) ∧
  (∀ p : Params, programWellFormed p = true → ∀ w ∈ p.text, (opcField w).toNat ∉ reservedBytes) ∧
  ∀ (s : State) (w : Word), s.status = .running → fetch s = some w → (opcField w).toNat ∈ reservedBytes →
    step s = .next (afterPanic s (.invalidInstruction s.pc w))

/-- A word with an assigned opcode is refused for a register number exactly when one of the fields its row of R26 uses
holds a number the row does not allow; and a word that decodes strictly has 0 in every register field its row marks
unused. (R26.) -/
def Obligations.RegisterValidityIsTheTable : Prop :=
  (∀ (strict : Bool) (w : Word), Assigned w → (decode strict w = .error .badRegister ↔ ¬ RegistersAllowed w)) ∧
  ∀ (w : Word) (i : Instr), decode true w = .ok i → Assigned w ∧ RegistersAllowed w ∧ UnusedRegistersZero w

/-- decode strict w gives an instruction if and only if w is valid: assigned opcode, allowed registers, be selector 16,
32 or 64, and under STRICT_UNUSED_FIELDS every unused field zero. A well-formed program has only valid words. A running
machine that fetches an invalid word answers InvalidRegister(pc, w) when the opcode is assigned and a register number is
not allowed, else InvalidInstruction(pc, w), and changes nothing but the status. (R72.) -/
def Obligations.ValidWordsDecodeAndInvalidWordsFault : Prop :=
  (∀ (strict : Bool) (w : Word), (∃ i, decode strict w = .ok i) ↔ Valid strict w) ∧
  (∀ p : Params, programWellFormed p = true → ∀ w ∈ p.text, Valid p.strictUnusedFields w) ∧
  ∀ (s : State) (w : Word), s.status = .running → fetch s = some w → ¬ Valid s.params.strictUnusedFields w →
    (Assigned w → ¬ RegistersAllowed w → step s = .next (afterPanic s (.invalidRegister s.pc w))) ∧
    (¬ (Assigned w ∧ ¬ RegistersAllowed w) → step s = .next (afterPanic s (.invalidInstruction s.pc w)))

/-- One word for each family, as 95_test_vectors.md and the rules write it out, decodes (strict) to its instruction:
add64 r1, 5; add r3, -1; be r4, 16; lsh64 r2, r7; add64 r11, -64; uhmul64 r5, r6; ldxb r0, [r10-1]; stw [r10-4]; stxw;
jeq; callx; exit. (95_test_vectors.md 2.1, 30_encoding.md R66.) -/
def Obligations.SampleWordsDecode : Prop :=
  decode true 0x0000000500000107 = .ok (.add64Imm 1 5) ∧
  decode true 0xFFFFFFFF00000304 = .ok (.addImm 3 0xFFFFFFFF) ∧
  decode true 0x00000010000004DC = .ok (.be 4 .swap16) ∧
  decode true 0x000000000000726F = .ok (.lsh64Reg 2 7) ∧
  decode true 0xFFFFFFC000000B07 = .ok (.add64Imm 11 0xFFFFFFC0) ∧
  decode true 0x000000000000653E = .ok (.uhmul64Reg 5 6) ∧
  decode true 0x00000000FFFFA071 = .ok (.ldxb 0 10 0xFFFF) ∧
  decode true 0x11223344FFFC0A62 = .ok (.stw 10 0xFFFC 0x11223344) ∧
  decode true 0x0000000000042163 = .ok (.stxw 1 4 2) ∧
  decode true 0x0000000500030115 = .ok (.jeqImm 1 5 3) ∧
  decode true 0x000000000000308D = .ok (.callx 3) ∧
  decode true 0x0000000000000095 = .ok .exit

/-- The image of a word is eight bytes: the opcode; dst plus 16 times src; off, low byte first; imm, low byte first. The
image of a list of words, slot after slot, is read back as that list, so slot i stands at offset 8*i. (R55.) -/
def Obligations.ProgramImageIsLittleEndian : Prop :=
  (∀ w : Word, ∃ b0 b1 b2 b3 b4 b5 b6 b7 : Byte, bytesOfWord w = [b0, b1, b2, b3, b4, b5, b6, b7] ∧
    b0 = opcField w ∧ b1.toNat = (dstField w).toNat + 16 * (srcField w).toNat ∧
    (offField w).toNat = b2.toNat + 256 * b3.toNat ∧
    (immField w).toNat = b4.toNat + 256 * b5.toNat + 256 ^ 2 * b6.toNat + 256 ^ 3 * b7.toNat) ∧
  ∀ ws : List Word, wordsOfImage (ws.flatMap bytesOfWord) = some ws

/-! ## The machine as a whole -/

/-- When the status is Running, slot pc of the text holds w and w decodes under STRICT_UNUSED_FIELDS to i, the step is
exec of i at the same state, with nothing added around it: exec itself sets pc. (R294, R296.) -/
def Obligations.StepRunsTheDecodedInstruction : Prop :=
  ∀ (s : State) (w : Word) (i : Instr), s.status = .running → s.params.text[s.pc]? = some w →
    decode s.params.strictUnusedFields w = .ok i → step s = exec i s

/-- In every running state whose parameters satisfy the launch conditions and whose pc names a slot, the step answers a
next state, or is refused for a register of the decoded instruction that holds no value; when every register holds a
value it answers a next state. A finished state has no step (R33, R294), which the last two clauses say in the model's
terms: the model answers a Halted state with the refusal halted and a Faulted(p) state with the fault stopped p. Which
of the two answers a finished state gets is the model's choice, no rule of the spec (log 9, DEDUCED). (R294, R33, R266,
log 9.) -/
def Obligations.StepIsTotalWhileRunning : Prop :=
  (∀ s : State, s.Live → s.status = .running →
    (∃ t, step s = .next t) ∨
    ∃ i r, instrAt s.params s.pc = some i ∧ r ∈ reads i ∧ s.reg r = .unwritten ∧
      step s = .refused (.unwrittenRegisterRead s.pc r)) ∧
  (∀ s : State, s.Live → s.status = .running → s.AllWritten → ∃ t, step s = .next t) ∧
  (∀ s : State, s.status = .halted → step s = .refused .halted) ∧
  ∀ (s : State) (p : Panic), s.status = .faulted p → step s = .fault (.stopped p)

/-- If an instruction, or a step, takes a running state to a state whose status is Faulted(p), then that state differs
from the one before in the status alone: registers, pc, call stack, memory and parameters are as they were; and the step
of that state answers no next state. (R262.) -/
def Obligations.PanicsArePreciseAndTerminal : Prop :=
  (∀ (i : Instr) (s t : State) (p : Panic), s.status = .running → exec i s = .next t → t.status = .faulted p →
    t = afterPanic s p) ∧
  (∀ (s t : State) (p : Panic), step s = .next t → t.status = .faulted p → t = afterPanic s p) ∧
  ∀ (s t : State) (p : Panic), t = afterPanic s p → ∀ u, step t ≠ .next u

/-- If an instruction, or a step, answers a next state, its parameters (Text, Functions, ENTRY, TEXT_BASE, MemMap,
MAX_CALL_DEPTH, the hooks, the four switches) are those of the state before. (R36.) -/
def Obligations.ParametersNeverChange : Prop :=
  (∀ (i : Instr) (s t : State), exec i s = .next t → t.params = s.params) ∧
  ∀ s t : State, step s = .next t → t.params = s.params

/-- For every state whose memory is in canonical form (rising addresses, no listed zero), lists mapped addresses only,
and whose call stack has at most MAX_CALL_DEPTH frames: if the step answers a next state, that state has the same three
properties. (R30, R32, R42, R247, R249.) -/
def Obligations.EveryStepKeepsTheCanonicalForm : Prop :=
  ∀ s t : State, s.Canonical → step s = .next t → t.Canonical

/-- State.reset has canonical memory, an empty call stack within the limit, and a value in every register. That
registers hold a value at reset is the model's choice (log 2), and so is what unlisted memory reads as (log 5). (R34,
log 2, log 5.) -/
def Obligations.ResetIsCanonical : Prop :=
  State.reset.Canonical ∧ State.reset.AllWritten

/-- For every state whose parameters satisfy the launch conditions, whose pc names a slot of the text and whose frames
all return to slots of the text: if the step answers a next state, that state has the same properties. So fetch is
always defined (R294). -/
def Obligations.EveryStepKeepsTheLaunchInvariant : Prop :=
  ∀ s t : State, s.Live → step s = .next t → t.Live

/-- For every state with the default hooks in which every register holds a value: if the step answers a next state, then
there too the hooks are the default and every register holds a value. (R35, R294, R247, R249.) -/
def Obligations.EveryStepKeepsRegistersWritten : Prop :=
  ∀ s t : State, (s.AllWritten ∧ s.params.hooks = .identity) → step s = .next t →
    t.AllWritten ∧ t.params.hooks = .identity

/-- If the host's input gives a launch state, its registers are InitRegs, its pc is ENTRY, its call stack is empty,
every mapped address that InitMem gives one byte holds that byte, and its status is Running; the parameters are those
supplied. (R34, R290, R291.) -/
def Obligations.LaunchStateIsTheTable : Prop :=
  ∀ (input : LaunchInput) (s : State), launch input = some s →
    s.regs = input.initRegs ∧ s.pc = input.params.entry ∧ s.cs = [] ∧ s.status = .running ∧ s.params = input.params ∧
    ∀ (a : Nat) (b : Byte), Mapped input.params.memMap a → (a, b) ∈ input.initMem →
      (∀ c ∈ input.initMem, c.1 = a → c.2 = b) → readByte s.mem a = b

/-- launch answers no state if and only if one of the constraints of R291 fails: a non-empty text, functions that
partition it into non-empty ranges, ENTRY inside, regions non-empty, inside the address space and disjoint, TEXT_BASE a
multiple of 8 with the text below 2^64. (That InitMem need not list every mapped byte is the model's choice, log 5.) A
launch state is live and its memory canonical. (R291, R40, R290, log 5.) -/
def Obligations.LaunchRefusesBadInputOnly : Prop :=
  (∀ input : LaunchInput, (∃ s, launch input = some s) ↔ LaunchConditions input.params) ∧
  ∀ (input : LaunchInput) (s : State), launch input = some s → s.Live ∧ s.Canonical

/-- State.reset is Running at pc 0 with an empty call stack and nothing listed in memory, ENTRY 0, the identity hooks,
the switches at their defaults. The model's own choices, no rule of the spec: every register 0 (log 2), no program and
no memory map (logs 4 and 5), TEXT_BASE 0x100000000 (log 6), MAX_CALL_DEPTH 4 (log 7). (R34, R290, R5, log 2, log 4, log
5, log 6, log 7.) -/
def Obligations.ResetValues : Prop :=
  (∀ r : Reg, State.reset.reg r = .holds 0) ∧ State.reset.pc = 0 ∧ State.reset.cs = [] ∧ State.reset.mem = [] ∧
  State.reset.status = .running ∧
  State.reset.params = {
    text := [], functions := [], entry := 0, textBase := 0x100000000, memMap := [], maxCallDepth := 4
    hooks := .identity, imm64LogicExt := .zext, stdwImmExt := .zext, shmul64DstExt := .zext
    strictUnusedFields := true }

/-- For every live running state whose program is well-formed (R297): if the step ends Faulted(p), p is DivisionByZero,
NegativeOverflow, MemoryOutOfBounds, AccessViolation or StackOverflow at that pc, or TargetOutOfBounds(pc, a) where the
slot holds a callx src, a is the value of x[src], and a is the byte address of no slot. The same of every run of any
length from a launch state, at the state before its last step. (R297, R298, R222, R248.) -/
def Obligations.WellFormedProgramsPanicOnDataOnly : Prop :=
  (∀ (s t : State) (p : Panic), s.Live → programWellFormed s.params = true → step s = .next t →
    t.status = .faulted p → DataDependent s p) ∧
  ∀ (input : LaunchInput) (s t : State) (k : Nat) (p : Panic), launch input = some s →
    programWellFormed input.params = true → Sys2Proof.core.run k s = .next t → t.status = .faulted p → DataDependent t p

/-- For every step that answers a next state under the default hooks, r10 is as before, and r11 is as before unless the
instruction in the slot is add64 r11, imm. (R23, R24, R26.) -/
def Obligations.FramePointerIsNeverWritten : Prop :=
  ∀ s t : State, s.params.hooks = .identity → step s = .next t →
    t.reg 10 = s.reg 10 ∧ (t.reg 11 = s.reg 11 ∨ ∃ imm, instrAt s.params s.pc = some (.add64Imm 11 imm))

/-- Under the default hooks, if two states hold different values in r11 and agree in everything else, then when one
steps to a next state the other does too, and those again agree in everything but r11, in the panics too. (R24, R26.) -/
def Obligations.StackPointerIsUnobservable : Prop :=
  ∀ s s' t : State, s.params.hooks = .identity → AgreeButStackPointer s s' → step s = .next t →
    ∃ t', step s' = .next t' ∧ AgreeButStackPointer t t'

/-- For every instruction and state: if a register the instruction reads holds no value, exec is refused as
unwrittenRegisterRead(pc, q) for such a register q, whatever its own tests would find. That the model represents the
refusal so is its choice (log 3); R266 says that a model may. Otherwise, in every state whose pc lies in a function,
exec answers a next state, perhaps a panic: the step is total (R294). -/
def Obligations.UnwrittenRegisterReadIsRefused : Prop :=
  (∀ (i : Instr) (s : State), (∃ r ∈ reads i, s.reg r = .unwritten) →
    ∃ q ∈ reads i, s.reg q = .unwritten ∧ exec i s = .refused (.unwrittenRegisterRead s.pc q)) ∧
  ∀ (i : Instr) (s : State) (f : FnRange), fnAt s.params s.pc = some f → (∀ r ∈ reads i, s.reg r ≠ .unwritten) →
    ∃ t, exec i s = .next t

/-- If an instruction takes a running state to Faulted(p), p is a panic of its family: none of their own for classes 4
and 7, the multiplications and exit; divisions, loads, stores, jumps and calls as R263 lists; and TargetOutOfBounds by
sequential advance for classes 1, 2, 3, 4, 6, 7. The panic records the slot of the instruction, and never
InvalidInstruction or InvalidRegister. (R263, R260.) -/
def Obligations.EachInstructionRaisesOnlyItsPanics : Prop :=
  ∀ (i : Instr) (s t : State) (p : Panic), s.status = .running → exec i s = .next t → t.status = .faulted p →
    (ownPanic i p = true ∨ (isSequential i = true ∧ p = .targetOutOfBounds s.pc (.slot (s.pc + 1)))) ∧
    (p = .divisionByZero s.pc ∨ p = .negativeOverflow s.pc ∨ (∃ ea n acc, p = .memoryOutOfBounds s.pc ea n acc) ∨
      (∃ ea n, p = .accessViolation s.pc ea n) ∨ (∃ tgt, p = .targetOutOfBounds s.pc tgt) ∨ p = .stackOverflow s.pc)

/-- A sequential instruction that answers a next state that did not fault set pc to pc + 1, stayed Running and was not
the last of its function. In the last slot of its function, with the registers it reads written, it faults and nothing
is written: a class 4 or 7 instruction or a multiplication with TargetOutOfBounds(pc, pc + 1); and any of them, compared
with the same state under functions in which it can advance, with the own panic p that it raises there, or, where it
completes there (pc + 1), with TargetOutOfBounds(pc, pc + 1). So an own panic is tested before the advance (R264 (3)).
(R28, R222, R264.) -/
def Obligations.SequentialAdvanceIsChecked : Prop :=
  (∀ (i : Instr) (s t : State), isSequential i = true → s.status = .running → exec i s = .next t →
    (∀ p, t.status ≠ .faulted p) → t.pc = s.pc + 1 ∧ t.status = .running ∧ canAdvance s = true) ∧
  ∀ (i : Instr) (s : State) (f : FnRange), isSequential i = true → fnAt s.params s.pc = some f → f.stop ≤ s.pc + 1 →
    (∀ r ∈ reads i, s.reg r ≠ .unwritten) →
    (isPlainArithmetic i = true →
      exec i s = .next (afterPanic s (.targetOutOfBounds s.pc (.slot (s.pc + 1))))) ∧
    ∀ (fs : List FnRange) (u : State), u = withFunctions s fs → canAdvance u = true →
      (∃ p, ownPanic i p = true ∧ exec i u = .next (afterPanic u p) ∧ exec i s = .next (afterPanic s p)) ∨
      ((∃ t, exec i u = .next t ∧ t.pc = u.pc + 1) ∧
        exec i s = .next (afterPanic s (.targetOutOfBounds s.pc (.slot (s.pc + 1)))))

/-! ## Class 4, 32-bit arithmetic and logic -/

/-- Each instruction, in every state that can advance and in which the registers it reads hold a and b, completes,
writing to dst the 32-bit sum, difference (the immediate is the minuend of the immediate form, dst that of the register
form), or, and, exclusive or of the low halves, zero-extended; pc advances and nothing else changes. dst = src is
allowed. (R102, R103, R104, R105, R106, R107, R108, R109, R114, R115.) -/
def Obligations.ArithmeticAndLogic32 : Prop :=
  ∀ (dst src : Reg) (imm : Imm),
    ComputesFromDst 0x04 (.addImm dst imm) dst (fun _ a => wordOf32 (low32 a + imm.toNat)) ∧
    ComputesFromBoth 0x0C (.addReg dst src) dst src (fun _ a b => wordOf32 (low32 a + low32 b)) ∧
    ComputesFromDst 0x14 (.subImm dst imm) dst (fun _ a => wordOf32 (imm.toNat - low32 a)) ∧
    ComputesFromBoth 0x1C (.subReg dst src) dst src (fun _ a b => wordOf32 (low32 a - low32 b)) ∧
    ComputesFromDst 0x44 (.orImm dst imm) dst (fun _ a => BitVec.ofNat 64 (low32 a ||| imm.toNat)) ∧
    ComputesFromBoth 0x4C (.orReg dst src) dst src (fun _ a b => BitVec.ofNat 64 (low32 a ||| low32 b)) ∧
    ComputesFromDst 0x54 (.andImm dst imm) dst (fun _ a => BitVec.ofNat 64 (low32 a &&& imm.toNat)) ∧
    ComputesFromBoth 0x5C (.andReg dst src) dst src (fun _ a b => BitVec.ofNat 64 (low32 a &&& low32 b)) ∧
    ComputesFromDst 0xA4 (.xorImm dst imm) dst (fun _ a => BitVec.ofNat 64 (low32 a ^^^ imm.toNat)) ∧
    ComputesFromBoth 0xAC (.xorReg dst src) dst src (fun _ a b => BitVec.ofNat 64 (low32 a ^^^ low32 b))

/-- With k the count operand modulo 32: lsh writes the low half times 2^k modulo 2^32, rsh the low half divided by 2^k,
ash the signed low half divided by 2^k rounding down, modulo 2^32; all zero-extended; pc advances and nothing else
changes. (R110, R111, R112, R113, R118, R119.) -/
def Obligations.Shifts32 : Prop :=
  ∀ (dst src : Reg) (imm : Imm),
    ComputesFromDst 0x64 (.lshImm dst imm) dst (fun _ a => wordOf32 (low32 a * 2 ^ (imm.toNat % 32))) ∧
    ComputesFromBoth 0x6C (.lshReg dst src) dst src (fun _ a b => wordOf32 (low32 a * 2 ^ (b.toNat % 32))) ∧
    ComputesFromDst 0x74 (.rshImm dst imm) dst (fun _ a => BitVec.ofNat 64 (low32 a / 2 ^ (imm.toNat % 32))) ∧
    ComputesFromBoth 0x7C (.rshReg dst src) dst src (fun _ a b => BitVec.ofNat 64 (low32 a / 2 ^ (b.toNat % 32))) ∧
    ComputesFromDst 0xC4 (.ashImm dst imm) dst (fun _ a => wordOf32 (Int.fdiv (sgn 32 (low32 a)) (2 ^ (imm.toNat % 32)))) ∧
    ComputesFromBoth 0xCC (.ashReg dst src) dst src (fun _ a b => wordOf32 (Int.fdiv (sgn 32 (low32 a)) (2 ^ (b.toNat % 32))))

/-- mov dst, imm writes the sign-extended immediate, reading no register; mov dst, src writes the sign-extended low half
of src, reading src alone; pc advances and nothing else changes. (R116, R117.) -/
def Obligations.Move32 : Prop :=
  ∀ (dst src : Reg) (imm : Imm),
    Writes 0xB4 (.movImm dst imm) dst (wordOf (sgn 32 imm.toNat)) ∧
    ComputesFromSrc 0xBC (.movReg dst src) dst src (fun b => wordOf (sgn 32 (low32 b)))

/-- be dst, 16 / 32 / 64 completes in every state that can advance and in which dst holds a value, writing the value
whose byte k is byte n - 1 - k of the old one for n = 2, 4, 8 bytes, zero above; nothing else changes but pc. A word
with opcode 0xDC and any other immediate does not decode. (R120.) -/
def Obligations.ByteSwapReversesLowBytes : Prop :=
  (∀ dst : Reg,
    ComputesFromDst 0xDC (.be dst .swap16) dst (fun _ a => BitVec.ofNat 64 (swapped 2 a.toNat)) ∧
    ComputesFromDst 0xDC (.be dst .swap32) dst (fun _ a => BitVec.ofNat 64 (swapped 4 a.toNat)) ∧
    ComputesFromDst 0xDC (.be dst .swap64) dst (fun _ a => BitVec.ofNat 64 (swapped 8 a.toNat))) ∧
  ∀ (strict : Bool) (w : Word) (i : Instr), opcField w = 0xDC → decode strict w = .ok i →
    ∃ dst size, i = .be dst size ∧
      ((immField w = 16 ∧ size = .swap16) ∨ (immField w = 32 ∧ size = .swap32) ∨ (immField w = 64 ∧ size = .swap64))

/-! ## Class 7, 64-bit arithmetic and logic -/

/-- Each completes in every state that can advance with its operands written. add64 and sub64 use the sign-extended
immediate (the minuend of sub64 dst, imm); or64, and64, xor64 with an immediate zero- or sign-extend it as the parameter
IMM64_LOGIC_EXT says; the register forms use all 64 bits. Only dst and pc change. add64 dst, imm holds for dst = r11
too. (R132, R133, R134, R135, R136, R137, R138, R139, R144, R145.) -/
def Obligations.ArithmeticAndLogic64 : Prop :=
  ∀ (dst src : Reg) (imm : Imm),
    ComputesFromDst 0x07 (.add64Imm dst imm) dst (fun _ a => wordOf (a.toNat + sextNat imm)) ∧
    ComputesFromBoth 0x0F (.add64Reg dst src) dst src (fun _ a b => wordOf (a.toNat + b.toNat)) ∧
    ComputesFromDst 0x17 (.sub64Imm dst imm) dst (fun _ a => wordOf (sextNat imm - a.toNat)) ∧
    ComputesFromBoth 0x1F (.sub64Reg dst src) dst src (fun _ a b => wordOf (a.toNat - b.toNat)) ∧
    ComputesFromDst 0x47 (.or64Imm dst imm) dst (fun p a => BitVec.ofNat 64 (a.toNat ||| widened p.imm64LogicExt imm)) ∧
    ComputesFromBoth 0x4F (.or64Reg dst src) dst src (fun _ a b => BitVec.ofNat 64 (a.toNat ||| b.toNat)) ∧
    ComputesFromDst 0x57 (.and64Imm dst imm) dst (fun p a => BitVec.ofNat 64 (a.toNat &&& widened p.imm64LogicExt imm)) ∧
    ComputesFromBoth 0x5F (.and64Reg dst src) dst src (fun _ a b => BitVec.ofNat 64 (a.toNat &&& b.toNat)) ∧
    ComputesFromDst 0xA7 (.xor64Imm dst imm) dst (fun p a => BitVec.ofNat 64 (a.toNat ^^^ widened p.imm64LogicExt imm)) ∧
    ComputesFromBoth 0xAF (.xor64Reg dst src) dst src (fun _ a b => BitVec.ofNat 64 (a.toNat ^^^ b.toNat))

/-- With k the count operand modulo 64: lsh64 writes x[dst] times 2^k modulo 2^64, rsh64 x[dst] divided by 2^k, ash64
the signed x[dst] divided by 2^k rounding down, modulo 2^64; pc advances and nothing else changes. (R140, R141, R142,
R143, R148, R149.) -/
def Obligations.Shifts64 : Prop :=
  ∀ (dst src : Reg) (imm : Imm),
    ComputesFromDst 0x67 (.lsh64Imm dst imm) dst (fun _ a => wordOf (a.toNat * 2 ^ (imm.toNat % 64))) ∧
    ComputesFromBoth 0x6F (.lsh64Reg dst src) dst src (fun _ a b => wordOf (a.toNat * 2 ^ (b.toNat % 64))) ∧
    ComputesFromDst 0x77 (.rsh64Imm dst imm) dst (fun _ a => BitVec.ofNat 64 (a.toNat / 2 ^ (imm.toNat % 64))) ∧
    ComputesFromBoth 0x7F (.rsh64Reg dst src) dst src (fun _ a b => BitVec.ofNat 64 (a.toNat / 2 ^ (b.toNat % 64))) ∧
    ComputesFromDst 0xC7 (.ash64Imm dst imm) dst (fun _ a => wordOf (Int.fdiv (sgn 64 a.toNat) (2 ^ (imm.toNat % 64)))) ∧
    ComputesFromBoth 0xCF (.ash64Reg dst src) dst src (fun _ a b => wordOf (Int.fdiv (sgn 64 a.toNat) (2 ^ (b.toNat % 64))))

/-- mov64 dst, imm writes the zero-extended immediate reading no register; mov64 dst, src copies all of src; hor64 dst,
imm writes x[dst] or the immediate times 2^32, whatever IMM64_LOGIC_EXT says; pc advances and nothing else changes.
(R146, R147, R150.) -/
def Obligations.Move64AndHighOr : Prop :=
  ∀ (dst src : Reg) (imm : Imm),
    Writes 0xB7 (.mov64Imm dst imm) dst (BitVec.ofNat 64 imm.toNat) ∧
    ComputesFromSrc 0xBF (.mov64Reg dst src) dst src (fun b => b) ∧
    ComputesFromDst 0xF7 (.hor64 dst imm) dst (fun _ a => BitVec.ofNat 64 (a.toNat ||| imm.toNat * 2 ^ 32))

/-! ## Class 6, product, quotient and remainder -/

/-- uhmul64 writes bits 127..64 of the product of the two zero-extended operands; lmul32 the product of the signed low
halves modulo 2^32, zero-extended; lmul64 the product modulo 2^64, with the immediate zero-extended; each completes in
every state that can advance with its operands written, and only dst and pc change. (R164, R165, R174, R175, R176,
R177.) -/
def Obligations.UnsignedHighAndLowProducts : Prop :=
  ∀ (dst src : Reg) (imm : Imm),
    ComputesFromDst 0x36 (.uhmul64Imm dst imm) dst (fun _ a => upperHalf (a.setWidth 128) (imm.setWidth 128)) ∧
    ComputesFromBoth 0x3E (.uhmul64Reg dst src) dst src (fun _ a b => upperHalf (a.setWidth 128) (b.setWidth 128)) ∧
    ComputesFromDst 0x86 (.lmul32Imm dst imm) dst (fun _ a => wordOf32 (sgn 32 (low32 a) * sgn 32 imm.toNat)) ∧
    ComputesFromBoth 0x8E (.lmul32Reg dst src) dst src (fun _ a b => wordOf32 (sgn 32 (low32 a) * sgn 32 (low32 b))) ∧
    ComputesFromDst 0x96 (.lmul64Imm dst imm) dst (fun _ a => wordOf (a.toNat * imm.toNat)) ∧
    ComputesFromBoth 0x9E (.lmul64Reg dst src) dst src (fun _ a b => wordOf (a.toNat * b.toNat))

/-- shmul64 writes floor(A * B / 2^64) modulo 2^64, where B is the signed immediate or the signed x[src] and A is x[dst]
read unsigned under SHMUL64_DST_EXT = zext and signed under sext; it completes in every state that can advance with its
operands written, and only dst and pc change. (R178, R179.) -/
def Obligations.SignedHighProduct : Prop :=
  ∀ (dst src : Reg) (imm : Imm),
    ComputesFromDst 0xB6 (.shmul64Imm dst imm) dst (fun p a =>
      match p.shmul64DstExt with
      | .zext => wordOf (Int.fdiv (a.toNat * sgn 32 imm.toNat) (2 ^ 64))
      | .sext => wordOf (Int.fdiv (sgn 64 a.toNat * sgn 32 imm.toNat) (2 ^ 64))) ∧
    ComputesFromBoth 0xBE (.shmul64Reg dst src) dst src (fun p a b =>
      match p.shmul64DstExt with
      | .zext => wordOf (Int.fdiv (a.toNat * sgn 64 b.toNat) (2 ^ 64))
      | .sext => wordOf (Int.fdiv (sgn 64 a.toNat * sgn 64 b.toNat) (2 ^ 64)))

/-- With the divisor each form uses (the immediate, the low half of src, or src): zero panics with DivisionByZero and
changes nothing else; otherwise, where the function goes on, the instruction completes and writes the quotient rounded
down or the remainder, of the low halves for the 32-bit forms. (R166, R167, R168, R169, R170, R171, R172, R173.) -/
def Obligations.UnsignedQuotientAndRemainder : Prop :=
  ∀ (dst src : Reg) (imm : Imm),
    DividesDst 0x46 (.udiv32Imm dst imm) dst imm.toNat (fun _ => False)
      (fun a => BitVec.ofNat 64 (low32 a / imm.toNat)) ∧
    DividesBoth 0x4E (.udiv32Reg dst src) dst src (fun b => low32 b) (fun _ _ => False)
      (fun a b => BitVec.ofNat 64 (low32 a / low32 b)) ∧
    DividesDst 0x56 (.udiv64Imm dst imm) dst imm.toNat (fun _ => False)
      (fun a => BitVec.ofNat 64 (a.toNat / imm.toNat)) ∧
    DividesBoth 0x5E (.udiv64Reg dst src) dst src (fun b => b.toNat) (fun _ _ => False)
      (fun a b => BitVec.ofNat 64 (a.toNat / b.toNat)) ∧
    DividesDst 0x66 (.urem32Imm dst imm) dst imm.toNat (fun _ => False)
      (fun a => BitVec.ofNat 64 (low32 a % imm.toNat)) ∧
    DividesBoth 0x6E (.urem32Reg dst src) dst src (fun b => low32 b) (fun _ _ => False)
      (fun a b => BitVec.ofNat 64 (low32 a % low32 b)) ∧
    DividesDst 0x76 (.urem64Imm dst imm) dst imm.toNat (fun _ => False)
      (fun a => BitVec.ofNat 64 (a.toNat % imm.toNat)) ∧
    DividesBoth 0x7E (.urem64Reg dst src) dst src (fun b => b.toNat) (fun _ _ => False)
      (fun a b => BitVec.ofNat 64 (a.toNat % b.toNat))

/-- With the signed divisor each form uses (sdiv64 dst, imm zero-extends, so its divisor is never negative): zero panics
with DivisionByZero; -1 under the most negative dividend panics with NegativeOverflow (never in sdiv64 dst, imm);
otherwise, where the function goes on, the instruction completes and writes the quotient rounded toward zero, the 32-bit
forms as their zero-extended 32-bit pattern. (R180, R181, R182, R183.) -/
def Obligations.SignedQuotient : Prop :=
  ∀ (dst src : Reg) (imm : Imm),
    DividesDst 0xC6 (.sdiv32Imm dst imm) dst (sgn 32 imm.toNat) (fun a => sgn 32 imm.toNat = -1 ∧ sgn 32 (low32 a) = -2 ^ 31)
      (fun a => wordOf32 (Int.tdiv (sgn 32 (low32 a)) (sgn 32 imm.toNat))) ∧
    DividesBoth 0xCE (.sdiv32Reg dst src) dst src (fun b => sgn 32 (low32 b)) (fun a b => sgn 32 (low32 b) = -1 ∧ sgn 32 (low32 a) = -2 ^ 31)
      (fun a b => wordOf32 (Int.tdiv (sgn 32 (low32 a)) (sgn 32 (low32 b)))) ∧
    DividesDst 0xD6 (.sdiv64Imm dst imm) dst imm.toNat (fun _ => False)
      (fun a => wordOf (Int.tdiv (sgn 64 a.toNat) imm.toNat)) ∧
    DividesBoth 0xDE (.sdiv64Reg dst src) dst src (fun b => sgn 64 b.toNat) (fun a b => sgn 64 b.toNat = -1 ∧ sgn 64 a.toNat = -2 ^ 63)
      (fun a b => wordOf (Int.tdiv (sgn 64 a.toNat) (sgn 64 b.toNat)))

/-- With the same divisors and panics as the signed quotient: otherwise, where the function goes on, the instruction
completes and writes the remainder of the division toward zero, the 32-bit forms as their zero-extended 32-bit pattern.
(R184, R185, R186, R187.) -/
def Obligations.SignedRemainder : Prop :=
  ∀ (dst src : Reg) (imm : Imm),
    DividesDst 0xE6 (.srem32Imm dst imm) dst (sgn 32 imm.toNat) (fun a => sgn 32 imm.toNat = -1 ∧ sgn 32 (low32 a) = -2 ^ 31)
      (fun a => wordOf32 (Int.tmod (sgn 32 (low32 a)) (sgn 32 imm.toNat))) ∧
    DividesBoth 0xEE (.srem32Reg dst src) dst src (fun b => sgn 32 (low32 b)) (fun a b => sgn 32 (low32 b) = -1 ∧ sgn 32 (low32 a) = -2 ^ 31)
      (fun a b => wordOf32 (Int.tmod (sgn 32 (low32 a)) (sgn 32 (low32 b)))) ∧
    DividesDst 0xF6 (.srem64Imm dst imm) dst imm.toNat (fun _ => False)
      (fun a => wordOf (Int.tmod (sgn 64 a.toNat) imm.toNat)) ∧
    DividesBoth 0xFE (.srem64Reg dst src) dst src (fun b => sgn 64 b.toNat) (fun a b => sgn 64 b.toNat = -1 ∧ sgn 64 a.toNat = -2 ^ 63)
      (fun a b => wordOf (Int.tmod (sgn 64 a.toNat) (sgn 64 b.toNat)))

/-- Each of the sixteen, whenever the divisor it uses is zero and its registers are written, panics with
DivisionByZero(pc), also in the last slot of a function; and any instruction that ends Faulted(DivisionByZero) is one of
the sixteen with its divisor zero. The divisor is the immediate, trunc_32(x[src]) in the 32-bit register forms, x[src]
in the 64-bit ones. (R161.) -/
def Obligations.DivisionByZeroExactly : Prop :=
  (∀ (f : DivForm) (dst src : Reg) (imm : Imm) (s : State) (a b : Word), s.reg dst = .holds a → s.reg src = .holds b →
    f.divisor b imm = 0 → exec (f.instr dst src imm) s = .next (afterPanic s (.divisionByZero s.pc))) ∧
  ∀ (i : Instr) (s t : State) (n : Nat), s.status = .running → exec i s = .next t →
    t.status = .faulted (.divisionByZero n) →
    n = s.pc ∧ ∃ (f : DivForm) (dst src : Reg) (imm : Imm) (b : Word),
      i = f.instr dst src imm ∧ s.reg src = .holds b ∧ f.divisor b imm = 0

/-- Each signed form whose divisor is -1 and whose dividend is the most negative value of its width panics with
NegativeOverflow(pc); any instruction that ends Faulted(NegativeOverflow) is such a form on such operands; the 64-bit
immediate forms and the unsigned ones never are; and no form divides by zero and overflows at once. (R162.) -/
def Obligations.NegativeOverflowExactly : Prop :=
  (∀ (f : DivForm) (dst src : Reg) (imm : Imm) (s : State) (a b : Word), s.reg dst = .holds a → s.reg src = .holds b →
    f.overflows a b imm → exec (f.instr dst src imm) s = .next (afterPanic s (.negativeOverflow s.pc))) ∧
  (∀ (i : Instr) (s t : State) (n : Nat), s.status = .running → exec i s = .next t →
    t.status = .faulted (.negativeOverflow n) →
    n = s.pc ∧ ∃ (f : DivForm) (dst src : Reg) (imm : Imm) (a b : Word),
      i = f.instr dst src imm ∧ s.reg dst = .holds a ∧ s.reg src = .holds b ∧ f.overflows a b imm) ∧
  ∀ (f : DivForm) (a b : Word) (imm : Imm), f.overflows a b imm → f.divisor b imm ≠ 0

/-- For each of the eight pairs (udiv, urem, sdiv, srem; 32 and 64 bits; immediate and register form), in every state
that can advance with dst and src written, the divisor not zero and no overflow, both instructions complete, writing q
and r: the dividend is divisor times q plus r, r is smaller in magnitude than the divisor, and r is zero or has the sign
of the dividend. The operands and results are read as the form reads them: unsigned or signed, the low halves in the
32-bit forms, the immediate of sdiv64 and srem64 zero-extended. (R188, R12.) -/
def Obligations.QuotientAndRemainderBelongTogether : Prop :=
  ∀ (dst src : Reg) (imm : Imm) (s : State) (a b : Word), s.reg dst = .holds a → s.reg src = .holds b →
    BelongTogether 32 (.udiv32Imm dst imm) (.urem32Imm dst imm) dst s (low32 a) imm.toNat (fun v => v.toNat) ∧
    BelongTogether 32 (.udiv32Reg dst src) (.urem32Reg dst src) dst s (low32 a) (low32 b) (fun v => v.toNat) ∧
    BelongTogether 64 (.udiv64Imm dst imm) (.urem64Imm dst imm) dst s a.toNat imm.toNat (fun v => v.toNat) ∧
    BelongTogether 64 (.udiv64Reg dst src) (.urem64Reg dst src) dst s a.toNat b.toNat (fun v => v.toNat) ∧
    BelongTogether 32 (.sdiv32Imm dst imm) (.srem32Imm dst imm) dst s
      (sgn 32 (low32 a)) (sgn 32 imm.toNat) (fun v => sgn 32 (low32 v)) ∧
    BelongTogether 32 (.sdiv32Reg dst src) (.srem32Reg dst src) dst s
      (sgn 32 (low32 a)) (sgn 32 (low32 b)) (fun v => sgn 32 (low32 v)) ∧
    BelongTogether 64 (.sdiv64Imm dst imm) (.srem64Imm dst imm) dst s
      (sgn 64 a.toNat) imm.toNat (fun v => sgn 64 v.toNat) ∧
    BelongTogether 64 (.sdiv64Reg dst src) (.srem64Reg dst src) dst s
      (sgn 64 a.toNat) (sgn 64 b.toNat) (fun v => sgn 64 v.toNat)

/-! ## Memory -/

/-- For every base and offset, the effective address the loads and stores use is base + sgn_16(off), modulo 2^64; and an
access of n bytes that runs past 2^64 is out of bounds for a load and for a store, whatever the map. (R201.) -/
def Obligations.EffectiveAddressWraps : Prop :=
  (∀ (base : Word) (off : Off), effectiveAddress base off = wordOf (base.toNat + sgn 16 off.toNat)) ∧
  ∀ (s : State) (ea : Word) (n v : Nat), 2 ^ 64 < ea.toNat + n →
    memRead s ea n = .error (.memoryOutOfBounds s.pc ea n .load) ∧
    memWrite s ea n v = .error (.memoryOutOfBounds s.pc ea n .store)

/-- For every state, address a and n: if all n bytes from a are mapped, MemRead answers the number whose byte k is the
byte at a + k, read-only regions included; otherwise it raises MemoryOutOfBounds(a, n, load). (R41.) -/
def Obligations.MemReadIsLittleEndian : Prop :=
  ∀ (s : State) (a : Word) (n : Nat),
    (AllMapped s.params.memMap a.toNat n → memRead s a n = .ok (littleEndian s.mem a.toNat n)) ∧
    (¬ AllMapped s.params.memMap a.toNat n → memRead s a n = .error (.memoryOutOfBounds s.pc a n .load))

/-- For every state with canonical memory, address a, n and v: a byte not mapped gives MemoryOutOfBounds(a, n, store),
also when another byte is read-only; all mapped and one read-only gives AccessViolation(a, n); otherwise the new memory
holds byte k of v at a + k for k < n, reads as before everywhere else and is canonical. (R42, R48.) -/
def Obligations.MemWriteStoresBytesOrPanics : Prop :=
  ∀ (s : State) (a : Word) (n v : Nat), Memory.wf s.mem = true →
    (¬ AllMapped s.params.memMap a.toNat n → memWrite s a n v = .error (.memoryOutOfBounds s.pc a n .store)) ∧
    (AllMapped s.params.memMap a.toNat n → (∃ k < n, InReadOnly s.params.memMap (a.toNat + k)) →
      memWrite s a n v = .error (.accessViolation s.pc a n)) ∧
    (AllMapped s.params.memMap a.toNat n → (∀ k < n, ¬ InReadOnly s.params.memMap (a.toNat + k)) →
      ∃ m, memWrite s a n v = .ok m ∧ Stored s.mem m a.toNat n v ∧ Memory.wf m = true)

/-- Each load, with base x[src]: if all its bytes are mapped and the function goes on, it completes and writes the 4-,
2-, 1- or 8-byte number at the effective address, zero-extended, to dst, changing nothing else but pc (dst = src
allowed, no alignment needed); if a byte is not mapped it panics with MemoryOutOfBounds(pc, ea, n, load). (R203, R204,
R205, R206.) -/
def Obligations.LoadsZeroExtend : Prop :=
  ∀ (dst src : Reg) (off : Off),
    (loadOf .word dst src off).opcode = 0x61 ∧ (loadOf .half dst src off).opcode = 0x69 ∧
    (loadOf .byte dst src off).opcode = 0x71 ∧ (loadOf .double dst src off).opcode = 0x79 ∧
    ∀ (w : Width) (s : State) (base ea : Word), s.reg src = .holds base → ea = wordOf (base.toNat + sgn 16 off.toNat) →
      (AllMapped s.params.memMap ea.toNat w.bytes → canAdvance s = true →
        exec (loadOf w dst src off) s =
          .next (afterWrite s dst (BitVec.ofNat 64 (littleEndian s.mem ea.toNat w.bytes)))) ∧
      (¬ AllMapped s.params.memMap ea.toNat w.bytes →
        exec (loadOf w dst src off) s = .next (afterPanic s (.memoryOutOfBounds s.pc ea w.bytes .load)))

/-- Each store of an immediate, with base x[dst]: out of bounds first, then access violation, else, where the function
goes on, it completes: the low 4, 2, 1 bytes of the immediate, or its 8 bytes widened as STDW_IMM_EXT says, stand at the
effective address, every other byte is as before, and registers, call stack and status are unchanged. (R207, R208, R209,
R210.) -/
def Obligations.StoresOfAnImmediate : Prop :=
  ∀ (dst : Reg) (off : Off) (imm : Imm),
    (storeImmOf .word dst off imm).opcode = 0x62 ∧ (storeImmOf .half dst off imm).opcode = 0x6A ∧
    (storeImmOf .byte dst off imm).opcode = 0x72 ∧ (storeImmOf .double dst off imm).opcode = 0x7A ∧
    ∀ (s : State) (base ea : Word), s.reg dst = .holds base → ea = wordOf (base.toNat + sgn 16 off.toNat) →
      (∀ w : Width, w ≠ .double → StoresAt (storeImmOf w dst off imm) s w ea imm.toNat) ∧
      StoresAt (storeImmOf .double dst off imm) s .double ea (widened s.params.stdwImmExt imm)

/-- Each store of a register, with base x[dst] and value x[src] (dst = src allowed): out of bounds first, then access
violation, else, where the function goes on, it completes: the low 4, 2, 1 or 8 bytes of x[src] stand at the effective
address, every other byte is as before, and registers, call stack and status are unchanged. (R211, R212, R213, R214.) -/
def Obligations.StoresOfARegister : Prop :=
  ∀ (dst src : Reg) (off : Off),
    (storeRegOf .word dst off src).opcode = 0x63 ∧ (storeRegOf .half dst off src).opcode = 0x6B ∧
    (storeRegOf .byte dst off src).opcode = 0x73 ∧ (storeRegOf .double dst off src).opcode = 0x7B ∧
    ∀ (w : Width) (s : State) (base ea v : Word), s.reg dst = .holds base → s.reg src = .holds v →
      ea = wordOf (base.toNat + sgn 16 off.toNat) → StoresAt (storeRegOf w dst off src) s w ea v.toNat

/-- If MemWrite(a, 8, v) gives memory m from canonical memory, then over m MemRead(a + k, 1) is byte k of v for k in
0..7, MemRead(a, 4) its low half, MemRead(a + 4, 4) its high half, MemRead(a + 2, 2) bits 31..16, MemRead(a, 8) all of
v; and a byte written inside it replaces that byte and leaves the other seven. (R44, R41, R42.) -/
def Obligations.MixedWidthsSeeTheBytes : Prop :=
  ∀ (s : State) (a : Word) (v : Nat) (m : Memory), v < 2 ^ 64 → Memory.wf s.mem = true → memWrite s a 8 v = .ok m →
    (∀ k < 8, memRead { s with mem := m } (a + BitVec.ofNat 64 k) 1 = .ok (v / 256 ^ k % 256)) ∧
    memRead { s with mem := m } a 4 = .ok (v % 2 ^ 32) ∧
    memRead { s with mem := m } (a + 4) 4 = .ok (v / 2 ^ 32) ∧
    memRead { s with mem := m } (a + 2) 2 = .ok (v / 2 ^ 16 % 2 ^ 16) ∧
    memRead { s with mem := m } a 8 = .ok v ∧
    ∀ k < 8, ∀ (b : Byte) (m' : Memory), memWrite { s with mem := m } (a + BitVec.ofNat 64 k) 1 b.toNat = .ok m' →
      ∀ j < 8, (readByte m' (a.toNat + j)).toNat = if j = k then b.toNat else v / 256 ^ j % 256

/-- If a store of register src at [dst + off] completes without a panic from canonical memory, then in the next state,
where its function goes on, the load of the same width from [dst + off] into any rd completes and writes x[src] modulo
2^(8n), n the width. (R215, R44.) -/
def Obligations.StoreThenLoadReturnsTheLowBytes : Prop :=
  ∀ (w : Width) (dst src rd : Reg) (off : Off) (s t : State) (v : Word), Memory.wf s.mem = true → s.status = .running →
    s.reg src = .holds v → exec (storeRegOf w dst off src) s = .next t → t.status = .running → canAdvance t = true →
    exec (loadOf w rd dst off) t = .next (afterWrite t rd (BitVec.ofNat 64 (v.toNat % 256 ^ w.bytes)))

/-! ## Control flow -/

/-- With [start, end) the function around pc and t = pc + 1 + sgn_16(off) as a mathematical integer: ja completes with
pc = t and nothing else changed when start <= t < end, and otherwise panics with TargetOutOfBounds(pc, t). (R224.) -/
def Obligations.UnconditionalJump : Prop :=
  ∀ (off : Off), (Instr.ja off).opcode = 0x05 ∧
    ∀ (s : State) (f : FnRange), fnAt s.params s.pc = some f →
      ((f.start : Int) ≤ target s off → target s off < f.stop →
        exec (.ja off) s = .next { s with pc := (target s off).toNat }) ∧
      ((target s off < f.start ∨ (f.stop : Int) ≤ target s off) →
        exec (.ja off) s = .next (afterPanic s (.targetOutOfBounds s.pc (.slot (target s off)))))

/-- Each of the eleven immediate forms compares x[dst] with the sign-extended immediate, unsigned or signed as its rule
says, and then follows the template: a target outside the function panics whether or not the condition holds; taken, pc
becomes the target; not taken, pc + 1, or the panic of running off the function. Nothing else changes. (R223, R225,
R227, R229, R231, R233, R235, R237, R239, R241, R243, R245.) -/
def Obligations.ConditionalJumpsOnImmediates : Prop :=
  ∀ (c : Cond) (dst : Reg) (imm : Imm) (off : Off), (jumpImmOf c dst imm off).opcode = c.opcode ∧
    ∀ (s : State) (f : FnRange) (a : Word), fnAt s.params s.pc = some f → s.reg dst = .holds a →
      JumpTemplate (jumpImmOf c dst imm off) s f off (c.holds a.toNat (sextNat imm))

/-- Each of the eleven register forms compares x[dst] with x[src], unsigned or signed as its rule says, and then follows
the template: a target outside the function panics whether or not the condition holds; taken, pc becomes the target; not
taken, pc + 1, or the panic of running off the function. Nothing else changes. (R223, R226, R228, R230, R232, R234,
R236, R238, R240, R242, R244, R246.) -/
def Obligations.ConditionalJumpsOnRegisters : Prop :=
  ∀ (c : Cond) (dst src : Reg) (off : Off), (jumpRegOf c dst src off).opcode = c.opcode + 8 ∧
    ∀ (s : State) (f : FnRange) (a b : Word), fnAt s.params s.pc = some f → s.reg dst = .holds a →
      s.reg src = .holds b → JumpTemplate (jumpRegOf c dst src off) s f off (c.holds a.toNat b.toNat)

/-- At full depth call panics with StackOverflow; else a target outside the text panics with TargetOutOfBounds(pc, t);
else in the last slot of a function it panics with TargetOutOfBounds(pc, pc + 1); else it completes: the frame (pc + 1,
what OnCall saves) is pushed, the registers are what OnCall makes of them, pc is t. Under the default hooks nothing is
saved and no register changes. (R247.) -/
def Obligations.CallPushesAFrame : Prop :=
  ∀ (off : Off), (Instr.call off).opcode = 0x85 ∧
    ∀ s : State,
      (s.params.maxCallDepth ≤ s.cs.length → exec (.call off) s = .next (afterPanic s (.stackOverflow s.pc))) ∧
      (s.cs.length < s.params.maxCallDepth → (target s off < 0 ∨ (s.params.text.length : Int) ≤ target s off) →
        exec (.call off) s = .next (afterPanic s (.targetOutOfBounds s.pc (.slot (target s off))))) ∧
      (s.cs.length < s.params.maxCallDepth → ¬ (target s off < 0 ∨ (s.params.text.length : Int) ≤ target s off) → ∀ f, fnAt s.params s.pc = some f →
        (f.stop ≤ s.pc + 1 →
          exec (.call off) s = .next (afterPanic s (.targetOutOfBounds s.pc (.slot (s.pc + 1))))) ∧
        (s.pc + 1 < f.stop →
          exec (.call off) s = .next { s with
            cs := s.cs ++ [⟨s.pc + 1, saveRegs s.params.hooks s.regs⟩]
            regs := onCall s.params.hooks s.regs
            pc := (target s off).toNat } ∧
          (s.params.hooks = .identity →
            exec (.call off) s = .next { s with cs := s.cs ++ [⟨s.pc + 1, []⟩], pc := (target s off).toNat })))

/-- With a = x[src]: at full depth callx panics with StackOverflow; else if a is below TEXT_BASE, or not a multiple of 8
above it, or names a slot outside the text, it panics with TargetOutOfBounds(pc, a); else in the last slot of a function
with TargetOutOfBounds(pc, pc + 1); else it completes as call does, with the target (a - TEXT_BASE) / 8. (R248.) -/
def Obligations.CallxTakesAByteAddress : Prop :=
  ∀ (src : Reg), (Instr.callx src).opcode = 0x8D ∧
    ∀ (s : State) (a : Word), s.reg src = .holds a →
      (s.params.maxCallDepth ≤ s.cs.length → exec (.callx src) s = .next (afterPanic s (.stackOverflow s.pc))) ∧
      (s.cs.length < s.params.maxCallDepth → (a.toNat < s.params.textBase.toNat ∨ (a.toNat - s.params.textBase.toNat) % 8 ≠ 0 ∨
          s.params.text.length ≤ (a.toNat - s.params.textBase.toNat) / 8) →
        exec (.callx src) s = .next (afterPanic s (.targetOutOfBounds s.pc (.address a)))) ∧
      (s.cs.length < s.params.maxCallDepth → ¬ (a.toNat < s.params.textBase.toNat ∨ (a.toNat - s.params.textBase.toNat) % 8 ≠ 0 ∨
          s.params.text.length ≤ (a.toNat - s.params.textBase.toNat) / 8) → ∀ f, fnAt s.params s.pc = some f →
        (f.stop ≤ s.pc + 1 →
          exec (.callx src) s = .next (afterPanic s (.targetOutOfBounds s.pc (.slot (s.pc + 1))))) ∧
        (s.pc + 1 < f.stop →
          exec (.callx src) s = .next { s with
            cs := s.cs ++ [⟨s.pc + 1, saveRegs s.params.hooks s.regs⟩]
            regs := onCall s.params.hooks s.regs
            pc := (a.toNat - s.params.textBase.toNat) / 8 } ∧
          (s.params.hooks = .identity →
            exec (.callx src) s = .next { s with cs := s.cs ++ [⟨s.pc + 1, []⟩], pc := (a.toNat - s.params.textBase.toNat) / 8 })))

/-- With an empty call stack exit completes with the status Halted and nothing else changed; with newest frame f it
completes with that frame removed, the registers what OnReturn makes of them and f.saved, and pc = f.ret; under the
default hooks no register changes. (R249.) -/
def Obligations.ExitReturnsOrHalts : Prop :=
  Instr.exit.opcode = 0x95 ∧
  (∀ s : State, s.cs = [] → exec .exit s = .next { s with status := .halted }) ∧
  (∀ (s : State) (fs : List Frame) (f : Frame), s.cs = fs ++ [f] →
    exec .exit s = .next { s with cs := fs, regs := onReturn s.params.hooks s.regs f.saved, pc := f.ret }) ∧
  ∀ (s : State) (fs : List Frame) (f : Frame), s.cs = fs ++ [f] → s.params.hooks = .identity →
    exec .exit s = .next { s with cs := fs, pc := f.ret }

/-- If call or callx completes without a panic from a running state s, then in every state u that has the call stack it
left, exit completes with the call stack of s and pc one slot after the call. (R247, R248, R249.) -/
def Obligations.ExitReturnsBehindTheCall : Prop :=
  ∀ (i : Instr) (s t : State), ((∃ off, i = .call off) ∨ ∃ src, i = .callx src) → s.status = .running →
    exec i s = .next t → t.status = .running → ∀ u : State, u.cs = t.cs → ∃ u',
      exec .exit u = .next u' ∧ u'.cs = s.cs ∧ u'.pc = s.pc + 1 ∧ u'.mem = u.mem ∧ u'.status = u.status

/-! ## Frames -/

/-- For every instruction of classes 1, 4, 6 and 7 (all that have a destination register), whenever exec answers a next
state: every other register, every byte of memory, the call stack and the parameters are unchanged; the status is
unchanged, or it is a panic and the destination and pc are unchanged too. (R22, R28, R100, R160, R200, R262.) -/
def Obligations.RegisterInstructionsFrame : Prop :=
  ∀ (i : Instr) (dst : Reg) (s t : State), destination i = some dst → exec i s = .next t →
    (∀ r : Reg, r ≠ dst → t.reg r = s.reg r) ∧ (∀ a, readByte t.mem a = readByte s.mem a) ∧ t.mem = s.mem ∧
    t.cs = s.cs ∧ t.params = s.params ∧
    (t.status = s.status ∨ ∃ p, t.status = .faulted p ∧ t.reg dst = s.reg dst ∧ t.pc = s.pc)

/-- For the eight stores, whenever exec answers a next state: every register, the call stack and the parameters are
unchanged, and every byte outside the access's width at effectiveAddress of the base register reads as before; the
status is unchanged, or it is a panic and all of memory is unchanged. (R200, R207, R211, R215, R262.) -/
def Obligations.StoresFrame : Prop :=
  ∀ (w : Width) (dst src : Reg) (off : Off) (imm : Imm) (s t : State) (i : Instr),
    (i = storeImmOf w dst off imm ∨ i = storeRegOf w dst off src) → exec i s = .next t →
    (∀ r : Reg, t.reg r = s.reg r) ∧ t.cs = s.cs ∧ t.params = s.params ∧
    (∀ base, s.reg dst = .holds base →
      ∀ a, (a < (effectiveAddress base off).toNat ∨ (effectiveAddress base off).toNat + w.bytes ≤ a) →
        readByte t.mem a = readByte s.mem a) ∧
    (t.status = s.status ∨ ∃ p, t.status = .faulted p ∧ t.mem = s.mem)

/-- For every instruction that is no arithmetic, load or store instruction, whenever exec answers a next state: every
byte of memory and the parameters are unchanged; under the default hooks every register is unchanged; ja and the
conditional jumps keep registers and call stack under any hooks, and the status but for a panic. (R220, R223, R247,
R248, R249.) -/
def Obligations.ControlFlowFrame : Prop :=
  (∀ (i : Instr) (s t : State), isSequential i = false → exec i s = .next t →
    (∀ a, readByte t.mem a = readByte s.mem a) ∧ t.mem = s.mem ∧ t.params = s.params ∧
    (s.params.hooks = .identity → ∀ r : Reg, t.reg r = s.reg r)) ∧
  ∀ (c : Cond) (dst src : Reg) (imm : Imm) (off : Off) (i : Instr) (s t : State),
    (i = .ja off ∨ i = jumpImmOf c dst imm off ∨ i = jumpRegOf c dst src off) → exec i s = .next t →
    (∀ r : Reg, t.reg r = s.reg r) ∧ t.cs = s.cs ∧ (t.status = s.status ∨ ∃ p, t = afterPanic s p)

/-! ## Well-formed programs -/

/-- For all parameters whose Functions partition the slots (R31): programWellFormed holds if and only if (a) every word
is valid, (b) the target i + 1 + sgn_16(off) of every ja and conditional jump lies in the function of its slot i, and of
every call in the text, (c) the word at slot end - 1 of every function [start, end) is ja or exit. (R297.) -/
def Obligations.ProgramWellFormedIsTheRule : Prop :=
  ∀ p : Params, FunctionsPartition p → (programWellFormed p = true ↔ TextWellFormed p)

end
end

