-- ==== Sys2Proof/Laws/Decode.lean ====
section
/-! SUPPORT. The fields of a word and the word of its fields undo each other; the table of opcodes. -/
namespace Sys2Proof

theorem mkWord_toNat (opc : BitVec 8) (dst src : BitVec 4) (off : Off) (imm : Imm) :
    (mkWord opc dst src off imm).toNat =
      opc.toNat + dst.toNat * 2 ^ 8 + src.toNat * 2 ^ 12 + off.toNat * 2 ^ 16 + imm.toNat * 2 ^ 32 := by
  have h1 := opc.isLt
  have h2 := dst.isLt
  have h3 := src.isLt
  have h4 := off.isLt
  simp only [mkWord, BitVec.toNat_append]
  rw [← Nat.shiftLeft_add_eq_or_of_lt (b := opc.toNat) (i := 8) h1,
    ← Nat.shiftLeft_add_eq_or_of_lt (b := dst.toNat) (i := 4) h2,
    ← Nat.shiftLeft_add_eq_or_of_lt (b := src.toNat) (i := 4) h3,
    ← Nat.shiftLeft_add_eq_or_of_lt (b := off.toNat) (i := 16) h4]
  simp only [Nat.shiftLeft_eq]
  ring

theorem field_toNat (w : Word) (lo len : Nat) : (w.extractLsb' lo len).toNat = w.toNat / 2 ^ lo % 2 ^ len := by
  simp [Nat.shiftRight_eq_div_pow]

section
variable (opc : BitVec 8) (dst src : BitVec 4) (off : Off) (imm : Imm)

@[simp] theorem opcField_mkWord : opcField (mkWord opc dst src off imm) = opc := by
  have h1 := opc.isLt; have h2 := dst.isLt; have h3 := src.isLt; have h4 := off.isLt; have h5 := imm.isLt
  apply BitVec.eq_of_toNat_eq; rw [opcField, field_toNat, mkWord_toNat]; omega

@[simp] theorem dstField_mkWord : dstField (mkWord opc dst src off imm) = dst := by
  have h1 := opc.isLt; have h2 := dst.isLt; have h3 := src.isLt; have h4 := off.isLt; have h5 := imm.isLt
  apply BitVec.eq_of_toNat_eq; rw [dstField, field_toNat, mkWord_toNat]; omega

@[simp] theorem srcField_mkWord : srcField (mkWord opc dst src off imm) = src := by
  have h1 := opc.isLt; have h2 := dst.isLt; have h3 := src.isLt; have h4 := off.isLt; have h5 := imm.isLt
  apply BitVec.eq_of_toNat_eq; rw [srcField, field_toNat, mkWord_toNat]; omega

@[simp] theorem offField_mkWord : offField (mkWord opc dst src off imm) = off := by
  have h1 := opc.isLt; have h2 := dst.isLt; have h3 := src.isLt; have h4 := off.isLt; have h5 := imm.isLt
  apply BitVec.eq_of_toNat_eq; rw [offField, field_toNat, mkWord_toNat]; omega

@[simp] theorem immField_mkWord : immField (mkWord opc dst src off imm) = imm := by
  have h1 := opc.isLt; have h2 := dst.isLt; have h3 := src.isLt; have h4 := off.isLt; have h5 := imm.isLt
  apply BitVec.eq_of_toNat_eq; rw [immField, field_toNat, mkWord_toNat]; omega
end

/-- Every word is the word of its fields (R60). -/
theorem mkWord_fields (w : Word) : mkWord (opcField w) (dstField w) (srcField w) (offField w) (immField w) = w := by
  apply BitVec.eq_of_toNat_eq
  have h := w.isLt
  rw [mkWord_toNat]
  simp only [opcField, dstField, srcField, offField, immField, field_toNat]
  omega

@[simp] theorem regField_toNat (r : Reg) : (regField r).toNat = r.val := by
  have h := r.isLt
  simp only [regField, BitVec.toNat_ofNat]
  omega

/-- A register number allowed in a field is read back from it. -/
theorem fieldReg_regField {allowed : Reg → Bool} {r : Reg} (h : allowed r = true) :
    fieldReg allowed (regField r) = .ok r := by
  simp [fieldReg, h]

/-- What a register field gives when it gives a register. -/
theorem fieldReg_ok {allowed : Reg → Bool} {n : BitVec 4} {r : Reg} (h : fieldReg allowed n = .ok r) :
    allowed r = true ∧ regField r = n := by
  unfold fieldReg at h
  split at h
  · split at h
    · cases h
      refine ⟨‹_›, BitVec.eq_of_toNat_eq ?_⟩
      simp
    · cases h
  · cases h

/-- A register field turns a number away for one reason only. -/
theorem fieldReg_error {allowed : Reg → Bool} {n : BitVec 4} {e : DecodeError} (h : fieldReg allowed n = .error e) :
    e = .badRegister := by
  unfold fieldReg at h
  split at h
  · split at h <;> cases h
    rfl
  · cases h; rfl

theorem unusedZero_ok {strict zero : Bool} {i j : Instr} :
    unusedZero strict zero i = .ok j ↔ i = j ∧ (strict = true → zero = true) := by
  unfold unusedZero
  split <;> rename_i h <;> cases strict <;> cases zero <;> simp_all

theorem selectorOf_selector (size : SwapSize) : selectorOf size.selector = some size := by
  cases size <;> rfl

theorem selectorOf_some {imm : Imm} {size : SwapSize} (h : selectorOf imm = some size) : size.selector = imm := by
  unfold selectorOf at h
  split at h
  · cases h; simp_all [SwapSize.selector]
  · split at h
    · cases h; simp_all [SwapSize.selector]
    · split at h
      · cases h; simp_all [SwapSize.selector]
      · cases h

/-- The table has 100 rows, and no opcode byte has two (R66). -/
theorem opcodeTable_nodup : opcodeTable.length = 100 ∧ (opcodeTable.map (·.1)).Nodup := by decide

theorem decode_of_shape {strict : Bool} {w : Word} {shape : Shape} (h : shapeOf (opcField w) = some shape) :
    decode strict w = decodeShape strict w shape := by simp [decode, h]

theorem decode_reserved {strict : Bool} {w : Word} (h : shapeOf (opcField w) = none) :
    decode strict w = .error .reservedOpcode := by simp [decode, h]

/-- The little-endian bytes of a word give the word back (R55). -/
theorem wordsOfImage_bytesOfWord (w : Word) : wordsOfImage (bytesOfWord w) = some [w] := by
  have hb : bytesOfWord w = [w.extractLsb' 0 8, w.extractLsb' 8 8, w.extractLsb' 16 8, w.extractLsb' 24 8,
      w.extractLsb' 32 8, w.extractLsb' 40 8, w.extractLsb' 48 8, w.extractLsb' 56 8] := rfl
  have h := w.isLt
  rw [hb]
  simp only [wordsOfImage, Option.map_some, natOfBytes, field_toNat]
  congr 2
  apply BitVec.eq_of_toNat_eq
  rw [BitVec.toNat_ofNat]
  omega

/-- The decoder reads a word's image as it reads the word. -/
theorem decodeBytes_bytesOfWord (w : Word) : decodeBytes (bytesOfWord w) = (decode true w).toOption := by
  simp [decodeBytes, wordsOfImage_bytesOfWord]

end Sys2Proof
end

