-- ==== Sys2Proof/Laws/Memory.lean ====
section
/-! SUPPORT. The data memory: reading after writing, the canonical form, little-endian numbers. -/
namespace Sys2Proof.Machine

/-! ## One byte -/

/-- An address below every listed one is not listed. -/
theorem readByte_of_below {m : Memory} {a : Nat} (h : ∀ c ∈ m, a < c.1) : readByte m a = unlistedByte := by
  induction m with
  | nil => rfl
  | cons c m ih =>
    have hc : a < c.1 := h c (by simp)
    simp only [readByte, if_neg (Nat.ne_of_lt hc)]
    exact ih fun d hd => h d (List.mem_cons_of_mem _ hd)

theorem Memory.wf_cons {a : Nat} {b : Byte} {m : Memory} :
    Memory.wf ((a, b) :: m) = true ↔ b ≠ unlistedByte ∧ (∀ c ∈ m, a < c.1) ∧ Memory.wf m = true := by
  simp [Memory.wf, and_assoc]

/-- Reading the address just written gives the byte written, in a memory of canonical form. -/
theorem readByte_writeByte_self {m : Memory} (hm : Memory.wf m = true) (a : Nat) (b : Byte) :
    readByte (writeByte m a b) a = b := by
  induction m with
  | nil => by_cases hb : b = unlistedByte <;> simp [writeByte, readByte, hb]
  | cons c m ih =>
    obtain ⟨a', b'⟩ := c
    obtain ⟨-, hlt, hwf⟩ := Memory.wf_cons.mp hm
    simp only [writeByte]
    split
    · rename_i h
      split
      · rename_i hb
        subst hb
        refine readByte_of_below fun d hd => ?_
        rcases List.mem_cons.mp hd with rfl | hd
        · exact h
        · exact Nat.lt_trans h (hlt d hd)
      · simp [readByte]
    · split
      · rename_i h
        subst h
        split
        · rename_i hb
          subst hb
          exact readByte_of_below hlt
        · simp [readByte]
      · rename_i h
        simp only [readByte, if_neg h]
        exact ih hwf

/-- Writing one address leaves every other as it was. -/
theorem readByte_writeByte_ne (m : Memory) {a x : Nat} (b : Byte) (h : x ≠ a) :
    readByte (writeByte m a b) x = readByte m x := by
  induction m with
  | nil => by_cases hb : b = unlistedByte <;> simp [writeByte, readByte, hb, h]
  | cons c m ih =>
    obtain ⟨a', b'⟩ := c
    simp only [writeByte]
    split
    · split
      · rfl
      · simp [readByte, h]
    · split
      · rename_i h'
        subst h'
        split
        · simp [readByte, h]
        · simp [readByte, h]
      · simp only [readByte]
        split
        · rfl
        · exact ih

/-- A written memory lists nothing but what was listed and the written address. -/
theorem mem_writeByte {m : Memory} {a : Nat} {b : Byte} {c : Host.Cell} (h : c ∈ writeByte m a b) :
    c ∈ m ∨ c = (a, b) := by
  induction m with
  | nil =>
    simp only [writeByte] at h
    split at h
    · cases h
    · exact .inr (by simpa using h)
  | cons d m ih =>
    obtain ⟨a', b'⟩ := d
    simp only [writeByte] at h
    split at h
    · split at h
      · exact .inl h
      · rcases List.mem_cons.mp h with h | h
        · exact .inr h
        · exact .inl h
    · split at h
      · split at h
        · exact .inl (List.mem_cons_of_mem _ h)
        · rcases List.mem_cons.mp h with h | h
          · exact .inr h
          · exact .inl (List.mem_cons_of_mem _ h)
      · rcases List.mem_cons.mp h with h | h
        · exact .inl (h ▸ List.mem_cons_self)
        · exact (ih h).imp (List.mem_cons_of_mem _) id

/-- Writing a byte keeps the canonical form. -/
theorem wf_writeByte {m : Memory} (hm : Memory.wf m = true) (a : Nat) (b : Byte) :
    Memory.wf (writeByte m a b) = true := by
  induction m with
  | nil => by_cases hb : b = unlistedByte <;> simp [writeByte, Memory.wf, hb]
  | cons c m ih =>
    obtain ⟨a', b'⟩ := c
    obtain ⟨hb', hlt, hwf⟩ := Memory.wf_cons.mp hm
    simp only [writeByte]
    split
    · rename_i h
      split
      · exact hm
      · rename_i hb
        refine Memory.wf_cons.mpr ⟨hb, fun d hd => ?_, hm⟩
        rcases List.mem_cons.mp hd with rfl | hd
        · exact h
        · exact Nat.lt_trans h (hlt d hd)
    · split
      · rename_i h
        subst h
        split
        · exact hwf
        · exact Memory.wf_cons.mpr ⟨‹_›, hlt, hwf⟩
      · refine Memory.wf_cons.mpr ⟨hb', fun d hd => ?_, ih hwf⟩
        rcases mem_writeByte hd with hd | rfl
        · exact hlt d hd
        · show a' < a
          omega

/-- Two memories in canonical form that read the same at every address are the same memory. -/
theorem Memory.ext_of_readByte {m n : Memory} (hm : Memory.wf m = true) (hn : Memory.wf n = true)
    (h : ∀ a, readByte m a = readByte n a) : m = n := by
  induction m generalizing n with
  | nil =>
    cases n with
    | nil => rfl
    | cons d n =>
      obtain ⟨a, b⟩ := d
      have := h a
      simp only [readByte, if_true] at this
      exact absurd this.symm (Memory.wf_cons.mp hn).1
  | cons c m ih =>
    obtain ⟨a, b⟩ := c
    obtain ⟨hb, hlt, hwf⟩ := Memory.wf_cons.mp hm
    cases n with
    | nil =>
      have := h a
      simp only [readByte, if_true] at this
      exact absurd this hb
    | cons d n =>
      obtain ⟨a', b'⟩ := d
      obtain ⟨hb', hlt', hwf'⟩ := Memory.wf_cons.mp hn
      have haa : a = a' := by
        rcases Nat.lt_trichotomy a a' with hl | he | hl
        · have := h a
          rw [readByte_of_below (m := (a', b') :: n) (by
            intro e he
            rcases List.mem_cons.mp he with rfl | he
            · exact hl
            · exact Nat.lt_trans hl (hlt' e he))] at this
          simp only [readByte, if_true] at this
          exact absurd this hb
        · exact he
        · have := h a'
          rw [readByte_of_below (m := (a, b) :: m) (by
            intro e he
            rcases List.mem_cons.mp he with rfl | he
            · exact hl
            · exact Nat.lt_trans hl (hlt e he))] at this
          simp only [readByte, if_true] at this
          exact absurd this.symm hb'
      subst haa
      have hbb : b = b' := by simpa [readByte] using h a
      subst hbb
      congr 1
      refine ih hwf hwf' fun x => ?_
      by_cases hx : x = a
      · subst hx
        rw [readByte_of_below hlt, readByte_of_below hlt']
      · simpa [readByte, hx] using h x

/-! ## Several bytes, little-endian -/

/-- Bytes outside the written range are as before. -/
theorem readByte_writeBytes_outside (m : Memory) (a v n : Nat) {x : Nat} (h : x < a ∨ a + n ≤ x) :
    readByte (writeBytes m a v n) x = readByte m x := by
  induction n generalizing m a v with
  | zero => rfl
  | succ n ih =>
    simp only [writeBytes]
    rw [ih _ _ _ (by omega), readByte_writeByte_ne _ _ (by omega)]

/-- Byte `k` of the written range is byte `k` of the value, counted from the least significant. -/
theorem readByte_writeBytes_inside {m : Memory} (hm : Memory.wf m = true) (a v n : Nat) {k : Nat} (hk : k < n) :
    readByte (writeBytes m a v n) (a + k) = BitVec.ofNat 8 (v / 256 ^ k) := by
  induction n generalizing m a v k with
  | zero => omega
  | succ n ih =>
    simp only [writeBytes]
    cases k with
    | zero =>
      rw [readByte_writeBytes_outside _ _ _ _ (by omega), Nat.add_zero, readByte_writeByte_self hm]
      simp
    | succ k =>
      have := ih (wf_writeByte hm a (BitVec.ofNat 8 v)) (a + 1) (v / 256) (k := k) (by omega)
      rw [show a + (k + 1) = a + 1 + k by omega, this, Nat.div_div_eq_div_mul, Nat.pow_succ, Nat.mul_comm]

/-- Writing several bytes keeps the canonical form. -/
theorem wf_writeBytes {m : Memory} (hm : Memory.wf m = true) (a v n : Nat) :
    Memory.wf (writeBytes m a v n) = true := by
  induction n generalizing m a v with
  | zero => exact hm
  | succ n ih => exact ih (wf_writeByte hm a _) _ _

/-- What a written memory lists was listed, or lies in the written range. -/
theorem mem_writeBytes {m : Memory} {a v n : Nat} {c : Host.Cell} (h : c ∈ writeBytes m a v n) :
    c ∈ m ∨ (a ≤ c.1 ∧ c.1 < a + n) := by
  induction n generalizing m a v with
  | zero => exact .inl h
  | succ n ih =>
    rcases ih h with h | h
    · rcases mem_writeByte h with h | rfl
      · exact .inl h
      · exact .inr ⟨Nat.le_refl _, by simp⟩
    · exact .inr ⟨by omega, by omega⟩

/-- A read of `n` bytes depends on those bytes only. -/
theorem readBytes_congr {m m' : Memory} {a a' n : Nat} (h : ∀ k < n, readByte m (a + k) = readByte m' (a' + k)) :
    readBytes m a n = readBytes m' a' n := by
  induction n generalizing a a' with
  | zero => rfl
  | succ n ih =>
    simp only [readBytes]
    rw [show readByte m a = readByte m' a' by simpa using h 0 (by omega)]
    rw [ih (a := a + 1) (a' := a' + 1) fun k hk => by
      rw [show a + 1 + k = a + (k + 1) by omega, show a' + 1 + k = a' + (k + 1) by omega]
      exact h (k + 1) (by omega)]

/-- A number read from `n` bytes has `8n` bits. -/
theorem readBytes_lt (m : Memory) (a n : Nat) : readBytes m a n < 256 ^ n := by
  induction n generalizing a with
  | zero => simp [readBytes]
  | succ n ih =>
    have h1 := ih (a + 1)
    have h2 := (readByte m a).isLt
    simp only [readBytes, Nat.pow_succ]
    omega

/-- The number read is the sum of its bytes, each at its place. -/
theorem readBytes_eq_sum (m : Memory) (a n : Nat) :
    readBytes m a n = ∑ k ∈ Finset.range n, (readByte m (a + k)).toNat * 256 ^ k := by
  induction n generalizing a with
  | zero => simp [readBytes]
  | succ n ih =>
    rw [Finset.sum_range_succ', readBytes, ih (a + 1), Finset.mul_sum, Nat.add_comm]
    congr 1
    · refine Finset.sum_congr rfl fun k _ => ?_
      rw [show a + 1 + k = a + (k + 1) by omega, Nat.pow_succ]
      ring
    · simp

/-- Reading back what was written gives its low `8n` bits. -/
theorem readBytes_writeBytes {m : Memory} (hm : Memory.wf m = true) (a v n : Nat) :
    readBytes (writeBytes m a v n) a n = v % 256 ^ n := by
  induction n generalizing m a v with
  | zero => simp [readBytes, Nat.mod_one]
  | succ n ih =>
    have h0 : readByte (writeBytes m a v (n + 1)) a = BitVec.ofNat 8 v := by
      simpa using readByte_writeBytes_inside hm a v (n + 1) (k := 0) (by omega)
    rw [readBytes, h0]
    have h1 := ih (wf_writeByte hm a (BitVec.ofNat 8 v)) (a + 1) (v / 256)
    simp only [writeBytes, h1, BitVec.toNat_ofNat]
    rw [Nat.pow_succ' (m := 256), Nat.mod_mul]

/-! ## Mapped addresses -/

theorem inRegion_iff (r : Region) (a : Nat) : inRegion r a = true ↔ r.base ≤ a ∧ a < r.base + r.len := by
  simp [inRegion]

/-- An address is mapped when some region contains it (R40). -/
theorem mapped_iff (memMap : List Region) (a : Nat) :
    mapped memMap a = true ↔ ∃ r ∈ memMap, r.base ≤ a ∧ a < r.base + r.len := by
  simp [mapped, inRegion_iff]

/-- An address is read-only when some region that is not writable contains it (R47). -/
theorem readOnly_iff (memMap : List Region) (a : Nat) :
    readOnly memMap a = true ↔ ∃ r ∈ memMap, (r.base ≤ a ∧ a < r.base + r.len) ∧ r.writable = false := by
  simp [readOnly, inRegion_iff]

theorem accessible_iff (memMap : List Region) (a n : Nat) :
    accessible memMap a n = true ↔ a + n ≤ 2 ^ 64 ∧ ∀ k < n, mapped memMap (a + k) = true := by
  simp [accessible]

theorem touchesReadOnly_iff (memMap : List Region) (a n : Nat) :
    touchesReadOnly memMap a n = true ↔ ∃ k < n, readOnly memMap (a + k) = true := by
  simp [touchesReadOnly]

/-! ## The launch memory -/

/-- The launch memory is in canonical form and lists mapped addresses only. -/
theorem initialMemory_canonical (memMap : List Region) (initMem : List (Nat × Byte)) :
    Memory.wf (initialMemory memMap initMem) = true ∧
    ∀ c ∈ initialMemory memMap initMem, mapped memMap c.1 = true := by
  unfold initialMemory
  suffices h : ∀ (l : List (Nat × Byte)) (m : Memory), (Memory.wf m = true ∧ ∀ c ∈ m, mapped memMap c.1 = true) →
      (Memory.wf (l.foldl (fun m c => if mapped memMap c.1 then writeByte m c.1 c.2 else m) m) = true ∧
        ∀ c ∈ l.foldl (fun m c => if mapped memMap c.1 then writeByte m c.1 c.2 else m) m, mapped memMap c.1 = true) from
    h initMem [] ⟨rfl, by simp⟩
  intro l
  induction l with
  | nil => exact fun m h => h
  | cons d l ih =>
    intro m h
    refine ih _ ?_
    dsimp only
    split
    · refine ⟨wf_writeByte h.1 _ _, fun c hc => ?_⟩
      rcases mem_writeByte hc with hc | rfl
      · exact h.2 c hc
      · assumption
    · exact h

end Sys2Proof.Machine
end

