-- ==== Sys2Proof/Laws/State.lean ====
section
/-! SUPPORT. The fields of a state after each update, and the register file's read-after-write laws. -/
namespace Sys2Proof.Machine

@[simp] theorem State.setReg_pc (s : State) (r : Reg) (v : Word) : (s.setReg r v).pc = s.pc := rfl
@[simp] theorem State.setReg_cs (s : State) (r : Reg) (v : Word) : (s.setReg r v).cs = s.cs := rfl
@[simp] theorem State.setReg_mem (s : State) (r : Reg) (v : Word) : (s.setReg r v).mem = s.mem := rfl
@[simp] theorem State.setReg_status (s : State) (r : Reg) (v : Word) : (s.setReg r v).status = s.status := rfl
@[simp] theorem State.setReg_params (s : State) (r : Reg) (v : Word) : (s.setReg r v).params = s.params := rfl
theorem State.setReg_regs (s : State) (r : Reg) (v : Word) :
    (s.setReg r v).regs = s.regs.set r.val (.holds v) r.isLt := rfl

/-- A register file that differs in nothing but other fields reads the same: `reg` depends on `regs` alone. -/
theorem State.reg_eq_of_regs {s t : State} (h : t.regs = s.regs) (r : Reg) : t.reg r = s.reg r := by
  simp [State.reg, h]

@[simp] theorem State.reg_pc_update (s : State) (n : Nat) (r : Reg) : State.reg { s with pc := n } r = s.reg r := rfl
@[simp] theorem State.reg_cs_update (s : State) (c : List Frame) (r : Reg) :
    State.reg { s with cs := c } r = s.reg r := rfl
@[simp] theorem State.reg_mem_update (s : State) (m : Memory) (r : Reg) : State.reg { s with mem := m } r = s.reg r := rfl
@[simp] theorem State.reg_status_update (s : State) (q : Status) (r : Reg) :
    State.reg { s with status := q } r = s.reg r := rfl
@[simp] theorem State.reg_params_update (s : State) (p : Params) (r : Reg) :
    State.reg { s with params := p } r = s.reg r := rfl

/-- The written register holds the value written. -/
@[simp] theorem State.reg_setReg_self (s : State) (r : Reg) (v : Word) : (s.setReg r v).reg r = .holds v := by
  simp [State.reg, State.setReg]

/-- Every other register is as before. -/
theorem State.reg_setReg_ne (s : State) {r q : Reg} (v : Word) (h : q ≠ r) : (s.setReg r v).reg q = s.reg q := by
  have h' : r.val ≠ q.val := fun e => h (Fin.ext e.symm)
  simp [State.reg, State.setReg, h']

/-- Both cases at once. -/
theorem State.reg_setReg (s : State) (r q : Reg) (v : Word) :
    (s.setReg r v).reg q = if q = r then .holds v else s.reg q := by
  split
  · subst q; simp
  · exact State.reg_setReg_ne s v ‹_›

end Sys2Proof.Machine
end

