-- ==== Sys2Proof/Laws/Ops.lean ====
section
/-! SUPPORT. What each shared operation can do: for every one, the equations of its cases, and one inversion lemma that
says everything it can answer as a next state. -/
namespace Sys2Proof.Machine

/-- The state a panic leaves (R262). -/
abbrev panicked (s : State) (p : Panic) : State := { s with status := .faulted p }

/-- The panic of a sequential advance out of the function (R222 (c)). -/
abbrev advancePanic (s : State) : Panic := .targetOutOfBounds s.pc (.slot (s.pc + 1))

/-! ## raise, withReg, withFn -/

@[simp] theorem raise_eq (s : State) (p : Panic) : raise s p = .next (panicked s p) := rfl

theorem raise_next {s t : State} {p : Panic} : raise s p = .next t ↔ t = panicked s p := by
  simp [raise, eq_comm]

/-- Reading a register that holds a value. -/
theorem withReg_holds {s : State} {r : Reg} {v : Word} (h : s.reg r = .holds v) (k : Word → Out) :
    withReg s r k = k v := by simp [withReg, h]

/-- Reading a register that holds none (R266). -/
theorem withReg_unwritten {s : State} {r : Reg} (h : s.reg r = .unwritten) (k : Word → Out) :
    withReg s r k = .refused (.unwrittenRegisterRead s.pc r) := by simp [withReg, h]

theorem withReg_next {s t : State} {r : Reg} {k : Word → Out} (h : withReg s r k = .next t) :
    ∃ v, s.reg r = .holds v ∧ k v = .next t := by
  cases hr : s.reg r with
  | unwritten => rw [withReg_unwritten hr] at h; cases h
  | holds v => exact ⟨v, rfl, by rwa [withReg_holds hr] at h⟩

theorem withFn_some {s : State} {f : FnRange} (h : fnAt s.params s.pc = some f) (k : FnRange → Out) :
    withFn s k = k f := by simp [withFn, h]

theorem withFn_none {s : State} (h : fnAt s.params s.pc = none) (k : FnRange → Out) :
    withFn s k = .refused (.pcOutsideFunctions s.pc) := by simp [withFn, h]

theorem withFn_next {s t : State} {k : FnRange → Out} (h : withFn s k = .next t) :
    ∃ f, fnAt s.params s.pc = some f ∧ k f = .next t := by
  cases hf : fnAt s.params s.pc with
  | none => rw [withFn_none hf] at h; cases h
  | some f => exact ⟨f, rfl, by rwa [withFn_some hf] at h⟩

/-- A function found for a slot is one of the list and contains the slot. -/
theorem fnAt_some {p : Params} {slot : Nat} {f : FnRange} (h : fnAt p slot = some f) :
    f ∈ p.functions ∧ f.start ≤ slot ∧ slot < f.stop := by
  have h2 := List.find?_some h
  simp only [inRange, Bool.and_eq_true, decide_eq_true_eq] at h2
  exact ⟨List.mem_of_find?_eq_some h, h2⟩

/-! ## advance -/

/-- The advance completes: the writes are committed (R28). -/
theorem advance_inside {s : State} {f : FnRange} (u : State) (hf : fnAt s.params s.pc = some f)
    (h : s.pc + 1 < f.stop) : advance s u = .next { u with pc := s.pc + 1 } := by
  simp [advance, withFn_some hf, h]

/-- The advance would leave the function: nothing is written (R222 (c)). -/
theorem advance_outside {s : State} {f : FnRange} (u : State) (hf : fnAt s.params s.pc = some f)
    (h : f.stop ≤ s.pc + 1) : advance s u = .next (panicked s (advancePanic s)) := by
  simp [advance, withFn_some hf, Nat.not_lt.mpr h]

/-- Everything an advance can answer as a next state. -/
theorem advance_next {s u t : State} (h : advance s u = .next t) :
    ∃ f, fnAt s.params s.pc = some f ∧
      ((s.pc + 1 < f.stop ∧ t = { u with pc := s.pc + 1 }) ∨
       (f.stop ≤ s.pc + 1 ∧ t = panicked s (advancePanic s))) := by
  obtain ⟨f, hf, h⟩ := withFn_next h
  refine ⟨f, hf, ?_⟩
  split at h
  · exact .inl ⟨‹_›, by cases h; rfl⟩
  · exact .inr ⟨by omega, by cases h; rfl⟩

/-- An advance is refused only where no function contains `pc`. -/
theorem advance_refused {s u : State} {r : Refusal} (h : advance s u = .refused r) :
    fnAt s.params s.pc = none ∧ r = .pcOutsideFunctions s.pc := by
  cases hf : fnAt s.params s.pc with
  | none => simp only [advance, withFn_none hf] at h; cases h; exact ⟨rfl, rfl⟩
  | some f => simp only [advance, withFn_some hf] at h; split at h <;> cases h

/-! ## Arithmetic: read, compute, write, advance -/

/-- What an instruction that writes one register leaves when it completes: the register and `pc`, nothing else. -/
abbrev wrote (s : State) (dst : Reg) (v : Word) : State := { s.setReg dst v with pc := s.pc + 1 }

theorem updateReg_holds {s : State} {dst : Reg} {a : Word} (f : Word → Word) (h : s.reg dst = .holds a) :
    updateReg f dst s = advance s (s.setReg dst (f a)) := by simp [updateReg, withReg_holds h]

theorem updateReg2_holds {s : State} {dst src : Reg} {a b : Word} (f : Word → Word → Word)
    (ha : s.reg dst = .holds a) (hb : s.reg src = .holds b) :
    updateReg2 f dst src s = advance s (s.setReg dst (f a b)) := by
  simp [updateReg2, withReg_holds ha, withReg_holds hb]

theorem copyReg_holds {s : State} {dst src : Reg} {b : Word} (f : Word → Word) (hb : s.reg src = .holds b) :
    copyReg f dst src s = advance s (s.setReg dst (f b)) := by simp [copyReg, withReg_holds hb]

theorem updateReg_next {s t : State} {dst : Reg} {f : Word → Word} (h : updateReg f dst s = .next t) :
    ∃ a, s.reg dst = .holds a ∧ advance s (s.setReg dst (f a)) = .next t := withReg_next h

theorem updateReg2_next {s t : State} {dst src : Reg} {f : Word → Word → Word}
    (h : updateReg2 f dst src s = .next t) :
    ∃ a b, s.reg dst = .holds a ∧ s.reg src = .holds b ∧ advance s (s.setReg dst (f a b)) = .next t := by
  obtain ⟨a, ha, h⟩ := withReg_next h
  obtain ⟨b, hb, h⟩ := withReg_next h
  exact ⟨a, b, ha, hb, h⟩

theorem copyReg_next {s t : State} {dst src : Reg} {f : Word → Word} (h : copyReg f dst src s = .next t) :
    ∃ b, s.reg src = .holds b ∧ advance s (s.setReg dst (f b)) = .next t := withReg_next h

/-! ## Divisions -/

theorem finishDivision_ok (v : Word) (dst : Reg) (s : State) :
    finishDivision (.ok v) dst s = advance s (s.setReg dst v) := rfl

theorem finishDivision_error (p : DivisionPanic) (dst : Reg) (s : State) :
    finishDivision (.error p) dst s = .next (panicked s (p.panicAt s.pc)) := rfl

theorem finishDivision_next {r : Except DivisionPanic Word} {s t : State} {dst : Reg}
    (h : finishDivision r dst s = .next t) :
    (∃ v, r = .ok v ∧ advance s (s.setReg dst v) = .next t) ∨
    (∃ p, r = .error p ∧ t = panicked s (p.panicAt s.pc)) := by
  cases r with
  | ok v => exact .inl ⟨v, rfl, h⟩
  | error p => exact .inr ⟨p, rfl, by cases h; rfl⟩

theorem divideReg_holds {s : State} {dst : Reg} {a : Word} (f : Word → Except DivisionPanic Word)
    (h : s.reg dst = .holds a) : divideReg f dst s = finishDivision (f a) dst s := by
  simp [divideReg, withReg_holds h]

theorem divideReg2_holds {s : State} {dst src : Reg} {a b : Word} (f : Word → Word → Except DivisionPanic Word)
    (ha : s.reg dst = .holds a) (hb : s.reg src = .holds b) :
    divideReg2 f dst src s = finishDivision (f a b) dst s := by
  simp [divideReg2, withReg_holds ha, withReg_holds hb]

theorem divideReg_next {s t : State} {dst : Reg} {f : Word → Except DivisionPanic Word}
    (h : divideReg f dst s = .next t) : ∃ a, s.reg dst = .holds a ∧ finishDivision (f a) dst s = .next t :=
  withReg_next h

theorem divideReg2_next {s t : State} {dst src : Reg} {f : Word → Word → Except DivisionPanic Word}
    (h : divideReg2 f dst src s = .next t) :
    ∃ a b, s.reg dst = .holds a ∧ s.reg src = .holds b ∧ finishDivision (f a b) dst s = .next t := by
  obtain ⟨a, ha, h⟩ := withReg_next h
  obtain ⟨b, hb, h⟩ := withReg_next h
  exact ⟨a, b, ha, hb, h⟩

theorem unsignedQuotient_error {a d : Nat} {p : DivisionPanic} :
    unsignedQuotient a d = .error p ↔ d = 0 ∧ p = .byZero := by
  unfold unsignedQuotient; split <;> simp_all [eq_comm]

theorem unsignedRemainder_error {a d : Nat} {p : DivisionPanic} :
    unsignedRemainder a d = .error p ↔ d = 0 ∧ p = .byZero := by
  unfold unsignedRemainder; split <;> simp_all [eq_comm]

theorem unsignedQuotient_ok {a d : Nat} (h : d ≠ 0) : unsignedQuotient a d = .ok (a / d) := by
  simp [unsignedQuotient, h]

theorem unsignedRemainder_ok {a d : Nat} (h : d ≠ 0) : unsignedRemainder a d = .ok (a % d) := by
  simp [unsignedRemainder, h]

theorem signedQuotient_ok {width : Nat} {a d : Int} (h0 : d ≠ 0) (h1 : ¬ (d = -1 ∧ a = -2 ^ (width - 1))) :
    signedQuotient width a d = .ok (Int.tdiv a d) := by simp [signedQuotient, h0, h1]

theorem signedRemainder_ok {width : Nat} {a d : Int} (h0 : d ≠ 0) (h1 : ¬ (d = -1 ∧ a = -2 ^ (width - 1))) :
    signedRemainder width a d = .ok (Int.tmod a d) := by simp [signedRemainder, h0, h1]

theorem signedQuotient_byZero (width : Nat) (a : Int) : signedQuotient width a 0 = .error .byZero := rfl

theorem signedRemainder_byZero (width : Nat) (a : Int) : signedRemainder width a 0 = .error .byZero := rfl

theorem signedQuotient_overflow (width : Nat) :
    signedQuotient width (-2 ^ (width - 1)) (-1) = .error .negativeOverflow := by simp [signedQuotient]

theorem signedRemainder_overflow (width : Nat) :
    signedRemainder width (-2 ^ (width - 1)) (-1) = .error .negativeOverflow := by simp [signedRemainder]

/-! ## Loads and stores -/

theorem memRead_ok {s : State} {a : Word} {n : Nat} (h : accessible s.params.memMap a.toNat n = true) :
    memRead s a n = .ok (readBytes s.mem a.toNat n) := by simp [memRead, h]

theorem memRead_error {s : State} {a : Word} {n : Nat} (h : accessible s.params.memMap a.toNat n = false) :
    memRead s a n = .error (.memoryOutOfBounds s.pc a n .load) := by simp [memRead, h]

theorem memWrite_ok {s : State} {a : Word} {n : Nat} (v : Nat)
    (h : accessible s.params.memMap a.toNat n = true) (hw : touchesReadOnly s.params.memMap a.toNat n = false) :
    memWrite s a n v = .ok (writeBytes s.mem a.toNat v n) := by simp [memWrite, h, hw]

theorem memWrite_outOfBounds {s : State} {a : Word} {n : Nat} (v : Nat)
    (h : accessible s.params.memMap a.toNat n = false) :
    memWrite s a n v = .error (.memoryOutOfBounds s.pc a n .store) := by simp [memWrite, h]

theorem memWrite_violation {s : State} {a : Word} {n : Nat} (v : Nat)
    (h : accessible s.params.memMap a.toNat n = true) (hw : touchesReadOnly s.params.memMap a.toNat n = true) :
    memWrite s a n v = .error (.accessViolation s.pc a n) := by simp [memWrite, h, hw]

/-- Everything `MemWrite` can answer. -/
theorem memWrite_cases (s : State) (a : Word) (n v : Nat) :
    (accessible s.params.memMap a.toNat n = true ∧ touchesReadOnly s.params.memMap a.toNat n = false ∧
      memWrite s a n v = .ok (writeBytes s.mem a.toNat v n)) ∨
    memWrite s a n v = .error (.memoryOutOfBounds s.pc a n .store) ∨
    memWrite s a n v = .error (.accessViolation s.pc a n) := by
  cases h : accessible s.params.memMap a.toNat n with
  | false => exact .inr (.inl (memWrite_outOfBounds v h))
  | true =>
    cases hw : touchesReadOnly s.params.memMap a.toNat n with
    | true => exact .inr (.inr (memWrite_violation v h hw))
    | false => exact .inl ⟨rfl, rfl, memWrite_ok v h hw⟩

/-- Everything a load can answer as a next state. -/
theorem load_next {w : Width} {dst src : Reg} {off : Off} {s t : State} (h : load w dst src off s = .next t) :
    ∃ base, s.reg src = .holds base ∧
      ((accessible s.params.memMap (effectiveAddress base off).toNat w.bytes = true ∧
        advance s (s.setReg dst (BitVec.ofNat 64 (readBytes s.mem (effectiveAddress base off).toNat w.bytes)))
          = .next t) ∨
       t = panicked s (.memoryOutOfBounds s.pc (effectiveAddress base off) w.bytes .load)) := by
  obtain ⟨base, hb, h⟩ := withReg_next h
  refine ⟨base, hb, ?_⟩
  cases ha : accessible s.params.memMap (effectiveAddress base off).toNat w.bytes with
  | true => rw [memRead_ok ha] at h; exact .inl ⟨rfl, h⟩
  | false => rw [memRead_error ha] at h; exact .inr (raise_next.mp h)

/-- Everything the end of a store can answer as a next state. -/
theorem finishStore_next {w : Width} {base : Word} {off : Off} {v : Nat} {s t : State}
    (h : finishStore w base off v s = .next t) :
    (accessible s.params.memMap (effectiveAddress base off).toNat w.bytes = true ∧
      touchesReadOnly s.params.memMap (effectiveAddress base off).toNat w.bytes = false ∧
      advance s { s with mem := writeBytes s.mem (effectiveAddress base off).toNat v w.bytes } = .next t) ∨
    t = panicked s (.memoryOutOfBounds s.pc (effectiveAddress base off) w.bytes .store) ∨
    t = panicked s (.accessViolation s.pc (effectiveAddress base off) w.bytes) := by
  unfold finishStore at h
  rcases memWrite_cases s (effectiveAddress base off) w.bytes v with ⟨ha, hw, he⟩ | he | he <;> rw [he] at h
  · exact .inl ⟨ha, hw, h⟩
  · exact .inr (.inl (raise_next.mp h))
  · exact .inr (.inr (raise_next.mp h))

theorem storeImm_next {w : Width} {dst : Reg} {off : Off} {v : Word} {s t : State}
    (h : storeImm w dst off v s = .next t) :
    ∃ base, s.reg dst = .holds base ∧ finishStore w base off v.toNat s = .next t := withReg_next h

theorem storeReg_next {w : Width} {dst src : Reg} {off : Off} {s t : State}
    (h : storeReg w dst off src s = .next t) :
    ∃ base v, s.reg dst = .holds base ∧ s.reg src = .holds v ∧ finishStore w base off v.toNat s = .next t := by
  obtain ⟨base, hb, h⟩ := withReg_next h
  obtain ⟨v, hv, h⟩ := withReg_next h
  exact ⟨base, v, hb, hv, h⟩

/-! ## Jumps -/

/-- The panic of a jump whose target lies outside the current function (R222 (a)). -/
abbrev jumpPanic (s : State) (off : Off) : Panic := .targetOutOfBounds s.pc (.slot (targetSlot s.pc off))

/-- Everything `ja` can answer as a next state. -/
theorem jump_next {off : Off} {s t : State} (h : jump off s = .next t) :
    ∃ f, fnAt s.params s.pc = some f ∧
      (((f.start : Int) ≤ targetSlot s.pc off ∧ targetSlot s.pc off < f.stop ∧
        t = { s with pc := (targetSlot s.pc off).toNat }) ∨
       ((targetSlot s.pc off < f.start ∨ (f.stop : Int) ≤ targetSlot s.pc off) ∧ t = panicked s (jumpPanic s off))) := by
  obtain ⟨f, hf, h⟩ := withFn_next h
  refine ⟨f, hf, ?_⟩
  dsimp only at h
  split at h
  · exact .inr ⟨‹_›, by cases h; rfl⟩
  · rename_i hn
    exact .inl ⟨by omega, by omega, by cases h; rfl⟩

/-- Everything a conditional jump can answer as a next state (R223). -/
theorem jumpIf_next {c : Bool} {off : Off} {s t : State} (h : jumpIf c off s = .next t) :
    ∃ f, fnAt s.params s.pc = some f ∧
      (((targetSlot s.pc off < f.start ∨ (f.stop : Int) ≤ targetSlot s.pc off) ∧ t = panicked s (jumpPanic s off)) ∨
       ((f.start : Int) ≤ targetSlot s.pc off ∧ targetSlot s.pc off < f.stop ∧
        ((c = true ∧ t = { s with pc := (targetSlot s.pc off).toNat }) ∨
         (c = false ∧ s.pc + 1 < f.stop ∧ t = { s with pc := s.pc + 1 }) ∨
         (c = false ∧ f.stop ≤ s.pc + 1 ∧ t = panicked s (advancePanic s))))) := by
  obtain ⟨f, hf, h⟩ := withFn_next h
  refine ⟨f, hf, ?_⟩
  dsimp only at h
  split at h
  · exact .inl ⟨‹_›, by cases h; rfl⟩
  · refine .inr ⟨by omega, by omega, ?_⟩
    split at h
    · exact .inl ⟨‹_›, by cases h; rfl⟩
    · have hc : c = false := by simpa using ‹¬ c = true›
      split at h
      · exact .inr (.inr ⟨hc, ‹_›, by cases h; rfl⟩)
      · exact .inr (.inl ⟨hc, by omega, by cases h; rfl⟩)

/-- A conditional jump whose target is inside the function and whose condition holds. -/
theorem jumpIf_taken {off : Off} {s : State} {f : FnRange} (hf : fnAt s.params s.pc = some f)
    (h1 : (f.start : Int) ≤ targetSlot s.pc off) (h2 : targetSlot s.pc off < f.stop) :
    jumpIf true off s = .next { s with pc := (targetSlot s.pc off).toNat } := by
  simp only [jumpIf, withFn_some hf]
  rw [if_neg (by omega)]
  rfl

/-- A conditional jump whose target is inside the function and whose condition does not hold. -/
theorem jumpIf_notTaken {off : Off} {s : State} {f : FnRange} (hf : fnAt s.params s.pc = some f)
    (h1 : (f.start : Int) ≤ targetSlot s.pc off) (h2 : targetSlot s.pc off < f.stop) (h3 : s.pc + 1 < f.stop) :
    jumpIf false off s = .next { s with pc := s.pc + 1 } := by
  simp only [jumpIf, withFn_some hf]
  rw [if_neg (by omega)]
  simp [Nat.not_le.mpr h3]

theorem jumpIfImm_next {c : Word → Word → Bool} {dst : Reg} {imm : Imm} {off : Off} {s t : State}
    (h : jumpIfImm c dst imm off s = .next t) :
    ∃ a, s.reg dst = .holds a ∧ jumpIf (c a (sext64 imm)) off s = .next t := withReg_next h

theorem jumpIfReg_next {c : Word → Word → Bool} {dst src : Reg} {off : Off} {s t : State}
    (h : jumpIfReg c dst src off s = .next t) :
    ∃ a b, s.reg dst = .holds a ∧ s.reg src = .holds b ∧ jumpIf (c a b) off s = .next t := by
  obtain ⟨a, ha, h⟩ := withReg_next h
  obtain ⟨b, hb, h⟩ := withReg_next h
  exact ⟨a, b, ha, hb, h⟩

/-! ## Calls and return -/

/-- The state a call leaves (R247). -/
abbrev called (s : State) (t : Nat) : State :=
  { s with
    cs := s.cs ++ [⟨s.pc + 1, saveRegs s.params.hooks s.regs⟩]
    regs := onCall s.params.hooks s.regs
    pc := t }

/-- Everything a call can answer as a next state. -/
theorem callTo_next {target : Option Nat} {reported : Target} {s t : State} (h : callTo target reported s = .next t) :
    (s.params.maxCallDepth ≤ s.cs.length ∧ t = panicked s (.stackOverflow s.pc)) ∨
    (s.cs.length < s.params.maxCallDepth ∧
      ((target = none ∧ t = panicked s (.targetOutOfBounds s.pc reported)) ∨
       ∃ n f, target = some n ∧ fnAt s.params s.pc = some f ∧
        ((f.stop ≤ s.pc + 1 ∧ t = panicked s (advancePanic s)) ∨ (s.pc + 1 < f.stop ∧ t = called s n)))) := by
  unfold callTo at h
  split at h
  · exact .inl ⟨‹_›, by cases h; rfl⟩
  · refine .inr ⟨by omega, ?_⟩
    split at h
    · exact .inl ⟨rfl, by cases h; rfl⟩
    · obtain ⟨f, hf, h⟩ := withFn_next h
      refine .inr ⟨_, f, rfl, hf, ?_⟩
      split at h
      · exact .inl ⟨‹_›, by cases h; rfl⟩
      · exact .inr ⟨by omega, by cases h; rfl⟩

theorem slotInText_some {n : Nat} {t : Int} {k : Nat} : slotInText n t = some k ↔ 0 ≤ t ∧ t < n ∧ k = t.toNat := by
  unfold slotInText
  split
  · simp; omega
  · simp only [Option.some.injEq]; omega

theorem slotInText_none {n : Nat} {t : Int} : slotInText n t = none ↔ t < 0 ∨ (n : Int) ≤ t := by
  unfold slotInText; split <;> simp_all

theorem slotOfAddress_some {base a : Word} {n k : Nat} :
    slotOfAddress base n a = some k ↔ k < n ∧ a.toNat = base.toNat + 8 * k := by
  unfold slotOfAddress
  split
  · simp; omega
  · simp only [Option.some.injEq]; omega

theorem returnOrHalt_empty {s : State} (h : s.cs = []) : returnOrHalt s = .next { s with status := .halted } := by
  simp [returnOrHalt, h]

theorem returnOrHalt_frame {s : State} {fs : List Frame} {f : Frame} (h : s.cs = fs ++ [f]) :
    returnOrHalt s =
      .next { s with cs := fs, regs := onReturn s.params.hooks s.regs f.saved, pc := f.ret } := by
  simp [returnOrHalt, h]

/-- Everything `exit` can answer. -/
theorem returnOrHalt_next {s t : State} (h : returnOrHalt s = .next t) :
    (s.cs = [] ∧ t = { s with status := .halted }) ∨
    ∃ fs f, s.cs = fs ++ [f] ∧
      t = { s with cs := fs, regs := onReturn s.params.hooks s.regs f.saved, pc := f.ret } := by
  rcases List.eq_nil_or_concat s.cs with hc | ⟨fs, f, hc⟩
  · rw [returnOrHalt_empty hc] at h
    exact .inl ⟨hc, by cases h; rfl⟩
  · rw [List.concat_eq_append] at hc
    rw [returnOrHalt_frame hc] at h
    exact .inr ⟨fs, f, hc, by cases h; rfl⟩

/-! ## The hooks of R5 at their default -/

@[simp] theorem saveRegs_identity (x : RegFile) : saveRegs .identity x = [] := rfl
@[simp] theorem onCall_identity (x : RegFile) : onCall .identity x = x := rfl
@[simp] theorem onReturn_identity (x : RegFile) (v : Saved) : onReturn .identity x v = x := rfl

/-! ## step and runWord -/

theorem step_running {s : State} {w : Word} (hs : s.status = .running) (hw : fetch s = some w) :
    step s = runWord s w := by simp [step, hs, hw]

theorem runWord_ok {s : State} {w : Word} {i : Instr} (h : decode s.params.strictUnusedFields w = .ok i) :
    runWord s w = exec i s := by simp [runWord, h]

theorem runWord_error {s : State} {w : Word} {e : DecodeError} (h : decode s.params.strictUnusedFields w = .error e) :
    runWord s w = .next (panicked s (invalidWordPanic s.pc w e)) := by simp [runWord, h]

/-- Everything a step can answer as a next state: an invalid word's panic, or what `exec` gives. -/
theorem step_next {s t : State} (h : step s = .next t) :
    s.status = .running ∧ ∃ w, fetch s = some w ∧
      ((∃ e, decode s.params.strictUnusedFields w = .error e ∧ t = panicked s (invalidWordPanic s.pc w e)) ∨
       ∃ i, decode s.params.strictUnusedFields w = .ok i ∧ exec i s = .next t) := by
  unfold step at h
  split at h
  · cases h
  · cases h
  · refine ⟨‹_›, ?_⟩
    split at h
    · refine ⟨_, ‹_›, ?_⟩
      unfold runWord at h
      split at h
      · exact .inr ⟨_, ‹_›, h⟩
      · exact .inl ⟨_, ‹_›, by cases h; rfl⟩
    · cases h

end Sys2Proof.Machine
end

