-- ==== Sys2Proof/Laws/PerInstr.lean ====
section
/-! SUPPORT. Facts about every instruction as syntax, one lemma for each constructor: the word of an instruction carries its
opcode byte, and the table's row of that byte makes that constructor. -/
namespace Sys2Proof.Laws.EncodedOpcode

/-- The opcode field of the word is the instruction's opcode, and the table has a row for it. -/
def Statement (i : Instr) : Prop := opcField (encode i) = i.opcode ∧ (shapeOf i.opcode).isSome = true

theorem ldxw (dst : Reg) (src : Reg) (off : Off) : Statement (.ldxw dst src off) := ⟨opcField_mkWord .., rfl⟩
theorem ldxh (dst : Reg) (src : Reg) (off : Off) : Statement (.ldxh dst src off) := ⟨opcField_mkWord .., rfl⟩
theorem ldxb (dst : Reg) (src : Reg) (off : Off) : Statement (.ldxb dst src off) := ⟨opcField_mkWord .., rfl⟩
theorem ldxdw (dst : Reg) (src : Reg) (off : Off) : Statement (.ldxdw dst src off) := ⟨opcField_mkWord .., rfl⟩
theorem stw (dst : Reg) (off : Off) (imm : Imm) : Statement (.stw dst off imm) := ⟨opcField_mkWord .., rfl⟩
theorem sth (dst : Reg) (off : Off) (imm : Imm) : Statement (.sth dst off imm) := ⟨opcField_mkWord .., rfl⟩
theorem stb (dst : Reg) (off : Off) (imm : Imm) : Statement (.stb dst off imm) := ⟨opcField_mkWord .., rfl⟩
theorem stdw (dst : Reg) (off : Off) (imm : Imm) : Statement (.stdw dst off imm) := ⟨opcField_mkWord .., rfl⟩
theorem stxw (dst : Reg) (off : Off) (src : Reg) : Statement (.stxw dst off src) := ⟨opcField_mkWord .., rfl⟩
theorem stxh (dst : Reg) (off : Off) (src : Reg) : Statement (.stxh dst off src) := ⟨opcField_mkWord .., rfl⟩
theorem stxb (dst : Reg) (off : Off) (src : Reg) : Statement (.stxb dst off src) := ⟨opcField_mkWord .., rfl⟩
theorem stxdw (dst : Reg) (off : Off) (src : Reg) : Statement (.stxdw dst off src) := ⟨opcField_mkWord .., rfl⟩
theorem addImm (dst : Reg) (imm : Imm) : Statement (.addImm dst imm) := ⟨opcField_mkWord .., rfl⟩
theorem addReg (dst : Reg) (src : Reg) : Statement (.addReg dst src) := ⟨opcField_mkWord .., rfl⟩
theorem subImm (dst : Reg) (imm : Imm) : Statement (.subImm dst imm) := ⟨opcField_mkWord .., rfl⟩
theorem subReg (dst : Reg) (src : Reg) : Statement (.subReg dst src) := ⟨opcField_mkWord .., rfl⟩
theorem orImm (dst : Reg) (imm : Imm) : Statement (.orImm dst imm) := ⟨opcField_mkWord .., rfl⟩
theorem orReg (dst : Reg) (src : Reg) : Statement (.orReg dst src) := ⟨opcField_mkWord .., rfl⟩
theorem andImm (dst : Reg) (imm : Imm) : Statement (.andImm dst imm) := ⟨opcField_mkWord .., rfl⟩
theorem andReg (dst : Reg) (src : Reg) : Statement (.andReg dst src) := ⟨opcField_mkWord .., rfl⟩
theorem lshImm (dst : Reg) (imm : Imm) : Statement (.lshImm dst imm) := ⟨opcField_mkWord .., rfl⟩
theorem lshReg (dst : Reg) (src : Reg) : Statement (.lshReg dst src) := ⟨opcField_mkWord .., rfl⟩
theorem rshImm (dst : Reg) (imm : Imm) : Statement (.rshImm dst imm) := ⟨opcField_mkWord .., rfl⟩
theorem rshReg (dst : Reg) (src : Reg) : Statement (.rshReg dst src) := ⟨opcField_mkWord .., rfl⟩
theorem xorImm (dst : Reg) (imm : Imm) : Statement (.xorImm dst imm) := ⟨opcField_mkWord .., rfl⟩
theorem xorReg (dst : Reg) (src : Reg) : Statement (.xorReg dst src) := ⟨opcField_mkWord .., rfl⟩
theorem movImm (dst : Reg) (imm : Imm) : Statement (.movImm dst imm) := ⟨opcField_mkWord .., rfl⟩
theorem movReg (dst : Reg) (src : Reg) : Statement (.movReg dst src) := ⟨opcField_mkWord .., rfl⟩
theorem ashImm (dst : Reg) (imm : Imm) : Statement (.ashImm dst imm) := ⟨opcField_mkWord .., rfl⟩
theorem ashReg (dst : Reg) (src : Reg) : Statement (.ashReg dst src) := ⟨opcField_mkWord .., rfl⟩
theorem be (dst : Reg) (size : SwapSize) : Statement (.be dst size) := ⟨opcField_mkWord .., rfl⟩
theorem uhmul64Imm (dst : Reg) (imm : Imm) : Statement (.uhmul64Imm dst imm) := ⟨opcField_mkWord .., rfl⟩
theorem uhmul64Reg (dst : Reg) (src : Reg) : Statement (.uhmul64Reg dst src) := ⟨opcField_mkWord .., rfl⟩
theorem udiv32Imm (dst : Reg) (imm : Imm) : Statement (.udiv32Imm dst imm) := ⟨opcField_mkWord .., rfl⟩
theorem udiv32Reg (dst : Reg) (src : Reg) : Statement (.udiv32Reg dst src) := ⟨opcField_mkWord .., rfl⟩
theorem udiv64Imm (dst : Reg) (imm : Imm) : Statement (.udiv64Imm dst imm) := ⟨opcField_mkWord .., rfl⟩
theorem udiv64Reg (dst : Reg) (src : Reg) : Statement (.udiv64Reg dst src) := ⟨opcField_mkWord .., rfl⟩
theorem urem32Imm (dst : Reg) (imm : Imm) : Statement (.urem32Imm dst imm) := ⟨opcField_mkWord .., rfl⟩
theorem urem32Reg (dst : Reg) (src : Reg) : Statement (.urem32Reg dst src) := ⟨opcField_mkWord .., rfl⟩
theorem urem64Imm (dst : Reg) (imm : Imm) : Statement (.urem64Imm dst imm) := ⟨opcField_mkWord .., rfl⟩
theorem urem64Reg (dst : Reg) (src : Reg) : Statement (.urem64Reg dst src) := ⟨opcField_mkWord .., rfl⟩
theorem lmul32Imm (dst : Reg) (imm : Imm) : Statement (.lmul32Imm dst imm) := ⟨opcField_mkWord .., rfl⟩
theorem lmul32Reg (dst : Reg) (src : Reg) : Statement (.lmul32Reg dst src) := ⟨opcField_mkWord .., rfl⟩
theorem lmul64Imm (dst : Reg) (imm : Imm) : Statement (.lmul64Imm dst imm) := ⟨opcField_mkWord .., rfl⟩
theorem lmul64Reg (dst : Reg) (src : Reg) : Statement (.lmul64Reg dst src) := ⟨opcField_mkWord .., rfl⟩
theorem shmul64Imm (dst : Reg) (imm : Imm) : Statement (.shmul64Imm dst imm) := ⟨opcField_mkWord .., rfl⟩
theorem shmul64Reg (dst : Reg) (src : Reg) : Statement (.shmul64Reg dst src) := ⟨opcField_mkWord .., rfl⟩
theorem sdiv32Imm (dst : Reg) (imm : Imm) : Statement (.sdiv32Imm dst imm) := ⟨opcField_mkWord .., rfl⟩
theorem sdiv32Reg (dst : Reg) (src : Reg) : Statement (.sdiv32Reg dst src) := ⟨opcField_mkWord .., rfl⟩
theorem sdiv64Imm (dst : Reg) (imm : Imm) : Statement (.sdiv64Imm dst imm) := ⟨opcField_mkWord .., rfl⟩
theorem sdiv64Reg (dst : Reg) (src : Reg) : Statement (.sdiv64Reg dst src) := ⟨opcField_mkWord .., rfl⟩
theorem srem32Imm (dst : Reg) (imm : Imm) : Statement (.srem32Imm dst imm) := ⟨opcField_mkWord .., rfl⟩
theorem srem32Reg (dst : Reg) (src : Reg) : Statement (.srem32Reg dst src) := ⟨opcField_mkWord .., rfl⟩
theorem srem64Imm (dst : Reg) (imm : Imm) : Statement (.srem64Imm dst imm) := ⟨opcField_mkWord .., rfl⟩
theorem srem64Reg (dst : Reg) (src : Reg) : Statement (.srem64Reg dst src) := ⟨opcField_mkWord .., rfl⟩
theorem add64Imm (dst : Reg) (imm : Imm) : Statement (.add64Imm dst imm) := ⟨opcField_mkWord .., rfl⟩
theorem add64Reg (dst : Reg) (src : Reg) : Statement (.add64Reg dst src) := ⟨opcField_mkWord .., rfl⟩
theorem sub64Imm (dst : Reg) (imm : Imm) : Statement (.sub64Imm dst imm) := ⟨opcField_mkWord .., rfl⟩
theorem sub64Reg (dst : Reg) (src : Reg) : Statement (.sub64Reg dst src) := ⟨opcField_mkWord .., rfl⟩
theorem or64Imm (dst : Reg) (imm : Imm) : Statement (.or64Imm dst imm) := ⟨opcField_mkWord .., rfl⟩
theorem or64Reg (dst : Reg) (src : Reg) : Statement (.or64Reg dst src) := ⟨opcField_mkWord .., rfl⟩
theorem and64Imm (dst : Reg) (imm : Imm) : Statement (.and64Imm dst imm) := ⟨opcField_mkWord .., rfl⟩
theorem and64Reg (dst : Reg) (src : Reg) : Statement (.and64Reg dst src) := ⟨opcField_mkWord .., rfl⟩
theorem lsh64Imm (dst : Reg) (imm : Imm) : Statement (.lsh64Imm dst imm) := ⟨opcField_mkWord .., rfl⟩
theorem lsh64Reg (dst : Reg) (src : Reg) : Statement (.lsh64Reg dst src) := ⟨opcField_mkWord .., rfl⟩
theorem rsh64Imm (dst : Reg) (imm : Imm) : Statement (.rsh64Imm dst imm) := ⟨opcField_mkWord .., rfl⟩
theorem rsh64Reg (dst : Reg) (src : Reg) : Statement (.rsh64Reg dst src) := ⟨opcField_mkWord .., rfl⟩
theorem xor64Imm (dst : Reg) (imm : Imm) : Statement (.xor64Imm dst imm) := ⟨opcField_mkWord .., rfl⟩
theorem xor64Reg (dst : Reg) (src : Reg) : Statement (.xor64Reg dst src) := ⟨opcField_mkWord .., rfl⟩
theorem mov64Imm (dst : Reg) (imm : Imm) : Statement (.mov64Imm dst imm) := ⟨opcField_mkWord .., rfl⟩
theorem mov64Reg (dst : Reg) (src : Reg) : Statement (.mov64Reg dst src) := ⟨opcField_mkWord .., rfl⟩
theorem ash64Imm (dst : Reg) (imm : Imm) : Statement (.ash64Imm dst imm) := ⟨opcField_mkWord .., rfl⟩
theorem ash64Reg (dst : Reg) (src : Reg) : Statement (.ash64Reg dst src) := ⟨opcField_mkWord .., rfl⟩
theorem hor64 (dst : Reg) (imm : Imm) : Statement (.hor64 dst imm) := ⟨opcField_mkWord .., rfl⟩
theorem ja (off : Off) : Statement (.ja off) := ⟨opcField_mkWord .., rfl⟩
theorem jeqImm (dst : Reg) (imm : Imm) (off : Off) : Statement (.jeqImm dst imm off) := ⟨opcField_mkWord .., rfl⟩
theorem jeqReg (dst : Reg) (src : Reg) (off : Off) : Statement (.jeqReg dst src off) := ⟨opcField_mkWord .., rfl⟩
theorem jgtImm (dst : Reg) (imm : Imm) (off : Off) : Statement (.jgtImm dst imm off) := ⟨opcField_mkWord .., rfl⟩
theorem jgtReg (dst : Reg) (src : Reg) (off : Off) : Statement (.jgtReg dst src off) := ⟨opcField_mkWord .., rfl⟩
theorem jgeImm (dst : Reg) (imm : Imm) (off : Off) : Statement (.jgeImm dst imm off) := ⟨opcField_mkWord .., rfl⟩
theorem jgeReg (dst : Reg) (src : Reg) (off : Off) : Statement (.jgeReg dst src off) := ⟨opcField_mkWord .., rfl⟩
theorem jsetImm (dst : Reg) (imm : Imm) (off : Off) : Statement (.jsetImm dst imm off) := ⟨opcField_mkWord .., rfl⟩
theorem jsetReg (dst : Reg) (src : Reg) (off : Off) : Statement (.jsetReg dst src off) := ⟨opcField_mkWord .., rfl⟩
theorem jneImm (dst : Reg) (imm : Imm) (off : Off) : Statement (.jneImm dst imm off) := ⟨opcField_mkWord .., rfl⟩
theorem jneReg (dst : Reg) (src : Reg) (off : Off) : Statement (.jneReg dst src off) := ⟨opcField_mkWord .., rfl⟩
theorem jsgtImm (dst : Reg) (imm : Imm) (off : Off) : Statement (.jsgtImm dst imm off) := ⟨opcField_mkWord .., rfl⟩
theorem jsgtReg (dst : Reg) (src : Reg) (off : Off) : Statement (.jsgtReg dst src off) := ⟨opcField_mkWord .., rfl⟩
theorem jsgeImm (dst : Reg) (imm : Imm) (off : Off) : Statement (.jsgeImm dst imm off) := ⟨opcField_mkWord .., rfl⟩
theorem jsgeReg (dst : Reg) (src : Reg) (off : Off) : Statement (.jsgeReg dst src off) := ⟨opcField_mkWord .., rfl⟩
theorem call (off : Off) : Statement (.call off) := ⟨opcField_mkWord .., rfl⟩
theorem callx (src : Reg) : Statement (.callx src) := ⟨opcField_mkWord .., rfl⟩
theorem exit : Statement (.exit) := ⟨opcField_mkWord .., rfl⟩
theorem jltImm (dst : Reg) (imm : Imm) (off : Off) : Statement (.jltImm dst imm off) := ⟨opcField_mkWord .., rfl⟩
theorem jltReg (dst : Reg) (src : Reg) (off : Off) : Statement (.jltReg dst src off) := ⟨opcField_mkWord .., rfl⟩
theorem jleImm (dst : Reg) (imm : Imm) (off : Off) : Statement (.jleImm dst imm off) := ⟨opcField_mkWord .., rfl⟩
theorem jleReg (dst : Reg) (src : Reg) (off : Off) : Statement (.jleReg dst src off) := ⟨opcField_mkWord .., rfl⟩
theorem jsltImm (dst : Reg) (imm : Imm) (off : Off) : Statement (.jsltImm dst imm off) := ⟨opcField_mkWord .., rfl⟩
theorem jsltReg (dst : Reg) (src : Reg) (off : Off) : Statement (.jsltReg dst src off) := ⟨opcField_mkWord .., rfl⟩
theorem jsleImm (dst : Reg) (imm : Imm) (off : Off) : Statement (.jsleImm dst imm off) := ⟨opcField_mkWord .., rfl⟩
theorem jsleReg (dst : Reg) (src : Reg) (off : Off) : Statement (.jsleReg dst src off) := ⟨opcField_mkWord .., rfl⟩

end Sys2Proof.Laws.EncodedOpcode
end

