-- ==== Sys2Proof/Laws/Safety.lean ====
section
/-! SUPPORT. The notions of Safety.lean: room to advance, the instruction in a slot, well-formed programs. -/
namespace Sys2Proof.Machine

/-! ## Room to advance -/

/-- A state can advance when the function of its slot goes on (R28, R222 (c)). -/
theorem canAdvance_iff {s : State} :
    canAdvance s = true ↔ ∃ f, fnAt s.params s.pc = some f ∧ s.pc + 1 < f.stop := by
  unfold canAdvance
  cases fnAt s.params s.pc <;> simp

/-- In a state that can advance, the advance commits the writes. -/
theorem advance_of_canAdvance {s : State} (u : State) (h : canAdvance s = true) :
    advance s u = .next { u with pc := s.pc + 1 } := by
  obtain ⟨f, hf, hlt⟩ := canAdvance_iff.mp h
  exact advance_inside u hf hlt

/-- In the last slot of a function no state can advance. -/
theorem canAdvance_last {s : State} {f : FnRange} (hf : fnAt s.params s.pc = some f) (h : f.stop ≤ s.pc + 1) :
    canAdvance s = false := by
  simp [canAdvance, hf, Nat.not_lt.mpr h]

/-! ## The instruction in a slot -/

/-- The instruction in a slot is what the slot's word decodes to. -/
theorem instrAt_eq_some {p : Params} {slot : Nat} {i : Instr} :
    instrAt p slot = some i ↔ ∃ w, p.text[slot]? = some w ∧ decode p.strictUnusedFields w = .ok i := by
  unfold instrAt
  cases p.text[slot]? with
  | none => simp
  | some w => cases h : decode p.strictUnusedFields w <;> simp [Except.toOption, h]

/-- A running state runs the instruction in its slot. -/
theorem step_of_instrAt {s : State} {i : Instr} (hs : s.status = .running) (h : instrAt s.params s.pc = some i) :
    step s = exec i s := by
  obtain ⟨w, hw, hd⟩ := instrAt_eq_some.mp h
  rw [step_running hs hw, runWord_ok hd]

/-! ## Well-formed programs -/

theorem insideFn_iff {f : FnRange} {t : Int} : insideFn f t = true ↔ (f.start : Int) ≤ t ∧ t < f.stop := by
  simp [insideFn]

/-- What `programWellFormed` asks, slot by slot and function by function (R297). -/
theorem programWellFormed_iff {p : Params} : programWellFormed p = true ↔
    (∀ slot < p.text.length, ∃ i, instrAt p slot = some i ∧ targetOk p slot i = true) ∧
    ∀ f ∈ p.functions, ∃ i, instrAt p (f.stop - 1) = some i ∧ endsFunction i = true := by
  simp only [programWellFormed, Bool.and_eq_true, List.all_eq_true, List.mem_range]
  refine and_congr (forall₂_congr fun slot _ => ?_) (forall₂_congr fun f _ => ?_)
  · cases instrAt p slot <;> simp
  · cases instrAt p (f.stop - 1) <;> simp

end Sys2Proof.Machine
end

