-- ==== Sys2Proof/Tests/Slice0.lean ====
section
/-! SUPPORT. Tests. The smoke test of the well-formedness checks; one written-out word for every constructor; single steps
with the values of 95_test_vectors.md and 96_test_vectors_families.md; and, for every obligation with hypotheses, a state
and operands that meet them (`witness_…`). -/

namespace Sys2Proof.Tests
open Sys2Proof Sys2Proof.Machine Sys2Proof.Claim

/-! ## Helpers -/

/-- A state with `r1 = a`, `r2 = b`, `r10 = c` and every other register 0, the text and functions given, and the memory
of 96_test_vectors_families.md 2.5: 16 read-only bytes at `0x100`, 16 and 8 writable bytes at `0x200` and `0x210`. -/
def bench (text : List Word) (functions : List FnRange) (pc : Nat) (a b c : Word) : State where
  regs := (((Vector.replicate 12 (.holds 0)).set 1 (.holds a)).set 2 (.holds b)).set 10 (.holds c)
  pc := pc
  cs := []
  mem := (List.range 16).map (fun k => (0x100 + k, BitVec.ofNat 8 (0x10 + k))) ++
    (List.range 24).map (fun k => (0x200 + k, BitVec.ofNat 8 (0x80 + k)))
  status := .running
  params := { Params.initial with
    text := text
    functions := functions
    memMap := [⟨0x100, 16, false⟩, ⟨0x200, 16, true⟩, ⟨0x210, 8, true⟩] }

/-- The word at slot 0 of a function of two slots, the second an `exit`. -/
def one (w a b : Word) : State := bench [w, exitWord] [⟨0, 2⟩] 0 a b 0

/-- The state of a step that answers one. -/
def after : Out → Option State
  | .next t => some t
  | .fault _ => none
  | .refused _ => none

/-- The words decode, strictly, to the instructions beside them. -/
def readsAll (rows : List (Word × Instr)) : Bool :=
  rows.all fun (w, i) => (decode true w).toOption == some i

/-- Rows `(word, x[1], x[2], x[1] after)`: the step completes with that value in `r1`. -/
def computesAll (rows : List (Word × Word × Word × Word)) : Bool :=
  rows.all fun (w, a, b, v) =>
    (after (step (one w a b))).map (fun t => (t.reg 1, t.pc, t.status)) == some (.holds v, 1, .running)

/-- Rows `(word, x[1], x[2])`: the step raises the panic and changes nothing else. -/
def panicsAll (p : Panic) (rows : List (Word × Word × Word)) : Bool :=
  rows.all fun (w, a, b) => after (step (one w a b)) == some { one w a b with status := .faulted p }

/-- The launch state of 96_test_vectors_families.md 2.5. -/
def memoryBench (w : Word) : State :=
  (((bench [w, exitWord] [⟨0, 2⟩] 0 0x100 0x200 0x210).setReg 3 0x1122334455667788).setReg 4 0xFFFFFFFFFFFFFFFF)

/-- Rows `(word, register, its value after)`. -/
def loadsAll (rows : List (Word × Reg × Word)) : Bool :=
  rows.all fun (w, r, v) =>
    (after (step (memoryBench w))).map (fun t => (t.reg r, t.pc)) == some (.holds v, 1)

/-- Rows `(word, address, the bytes from it up)`: those bytes are stored, the bytes around them are kept. -/
def storesAll (rows : List (Word × Nat × List Byte)) : Bool :=
  rows.all fun (w, a, bs) =>
    match after (step (memoryBench w)) with
    | none => false
    | some t =>
      let old := memoryBench w
      t.pc == 1 && Memory.wf t.mem && (List.range bs.length).map (fun k => readByte t.mem (a + k)) == bs &&
      readByte t.mem (a - 1) == readByte old.mem (a - 1) &&
      readByte t.mem (a + bs.length) == readByte old.mem (a + bs.length)

/-- Rows `(word, panic)`: the panic, and nothing else changed. -/
def memoryPanicsAll (rows : List (Word × Panic)) : Bool :=
  rows.all fun (w, p) => after (step (memoryBench w)) == some { memoryBench w with status := .faulted p }

/-- Rows `(x[1], second operand, outcome of each of the eleven conditions)`, for the register forms at `off = 3`. -/
def conditionsAll (rows : List (Word × Word × List Bool)) : Bool :=
  rows.all fun (a, b, outcomes) =>
    [Cond.eq, .gt, .ge, .set, .ne, .sgt, .sge, .lt, .le, .slt, .sle].map (fun c =>
      (after (exec (jumpRegOf c 1 2 3) (bench (List.replicate 8 exitWord) [⟨0, 8⟩] 2 a b 0))).map State.pc) ==
    outcomes.map fun taken => some (if taken then 6 else 3)

/-- Rows `(pc, word, x[1], x[2], x[10], the pc after or the target of the panic)`, in a text of 16 slots. -/
def jumpsAll (rows : List (Nat × Word × Word × Word × Word × Except Int Nat)) : Bool :=
  rows.all fun (pc, w, a, b, c, expected) =>
    let s := bench ((List.replicate 16 exitWord).set pc w) [⟨0, 8⟩, ⟨8, 16⟩] pc a b c
    after (step s) == some
      (match expected with
       | .ok n => { s with pc := n }
       | .error t => { s with status := .faulted (.targetOutOfBounds pc (.slot t)) })

/-- Rows `(pc, return slots, word, x[3], status after, pc after, return slots after)`, in a text of 6 slots with
`MAX_CALL_DEPTH = 2`. -/
def callsAll (rows : List (Nat × List Nat × Word × Word × Status × Nat × List Nat)) : Bool :=
  rows.all fun (pc, cs, w, a, status, pc', cs') =>
    let s := bench ((List.replicate 6 exitWord).set pc w) [⟨0, 3⟩, ⟨3, 6⟩] pc 0 0 0
    let s := { s.setReg 3 a with cs := cs.map fun n => ⟨n, []⟩, params := { s.params with maxCallDepth := 2 } }
    after (step s) == some { s with status := status, pc := pc', cs := cs'.map fun n => ⟨n, []⟩ }

/-- What 95_test_vectors.md 2.1 says of a word. -/
inductive Verdict where
  | reads
  | invalidInstruction
  | invalidRegister
  deriving DecidableEq, Repr

/-- The verdict of the machine: by the status after the step of a word in slot 0. -/
def verdict (strict : Bool) (w : Word) : Verdict :=
  let s := one w 0 0
  match (after (step { s with params := { s.params with strictUnusedFields := strict } })).map State.status with
  | some (.faulted (.invalidInstruction _ _)) => .invalidInstruction
  | some (.faulted (.invalidRegister _ _)) => .invalidRegister
  | _ => .reads

/-- Rows `(word, verdict when strict, verdict when not)`. -/
def outcomesAll (rows : List (Word × Verdict × Verdict)) : Bool :=
  rows.all fun (w, strict, lax) => verdict true w == strict && verdict false w == lax

/-! ## Well-formedness: an ill-formed term for each check -/

theorem test_wellFormed_refuses_r11_as_destination : (Instr.sub64Imm 11 5).wellFormed = false := by decide
theorem test_wellFormed_refuses_r10_as_add64_destination : (Instr.add64Imm 10 5).wellFormed = false := by decide
theorem test_wellFormed_refuses_r10_as_destination : (Instr.mov64Reg 10 0).wellFormed = false := by decide
theorem test_wellFormed_refuses_r11_as_source : (Instr.add64Reg 1 11).wellFormed = false := by decide
theorem test_wellFormed_refuses_r10_as_load_destination : (Instr.ldxdw 10 1 0).wellFormed = false := by decide
theorem test_wellFormed_refuses_r11_as_load_base : (Instr.ldxb 1 11 0).wellFormed = false := by decide
theorem test_wellFormed_refuses_r11_as_store_base :
    (Instr.stw 11 0 0).wellFormed = false ∧ (Instr.stxw 11 0 1).wellFormed = false := by decide
theorem test_wellFormed_refuses_r11_as_stored : (Instr.stxdw 1 0 11).wellFormed = false := by decide
theorem test_wellFormed_refuses_r10_in_a_jump :
    (Instr.jeqImm 10 0 0).wellFormed = false ∧ (Instr.jeqReg 10 1 0).wellFormed = false := by decide
theorem test_wellFormed_refuses_r11_in_a_jump : (Instr.jsltReg 1 11 0).wellFormed = false := by decide
theorem test_wellFormed_refuses_r10_in_callx : (Instr.callx 10).wellFormed = false := by decide
theorem test_wellFormed_allows_the_boundaries :
    [Instr.add64Imm 11 0, .add64Imm 9 0, .addReg 9 10, .ldxw 9 10 0, .stxw 10 0 10, .stb 10 0 0, .jneReg 9 10 0,
      .callx 9].all Instr.wellFormed = true := by decide

/-! ## Decoding: a word written out for every constructor (R60, R66; the bits of opcode, dst, src, off, imm) -/

theorem test_decode_loads : readsAll
  [(0x00000000FFF6A361, .ldxw 3 10 0xFFF6), (0x00000000FFF6A369, .ldxh 3 10 0xFFF6),
   (0x00000000FFF6A371, .ldxb 3 10 0xFFF6), (0x00000000FFF6A379, .ldxdw 3 10 0xFFF6)] = true := by
  decide

theorem test_decode_stores_of_an_immediate : readsAll
  [(0x89ABCDEFFFF60A62, .stw 10 0xFFF6 0x89ABCDEF), (0x89ABCDEFFFF60A6A, .sth 10 0xFFF6 0x89ABCDEF),
   (0x89ABCDEFFFF60A72, .stb 10 0xFFF6 0x89ABCDEF), (0x89ABCDEFFFF60A7A, .stdw 10 0xFFF6 0x89ABCDEF)] = true := by
  decide

theorem test_decode_stores_of_a_register : readsAll
  [(0x00000000FFF6AA63, .stxw 10 0xFFF6 10), (0x00000000FFF6AA6B, .stxh 10 0xFFF6 10),
   (0x00000000FFF6AA73, .stxb 10 0xFFF6 10), (0x00000000FFF6AA7B, .stxdw 10 0xFFF6 10)] = true := by
  decide

theorem test_decode_class4 : readsAll
  [(0x89ABCDEF00000304, .addImm 3 0x89ABCDEF), (0x000000000000A30C, .addReg 3 10),
   (0x89ABCDEF00000314, .subImm 3 0x89ABCDEF), (0x000000000000A31C, .subReg 3 10),
   (0x89ABCDEF00000344, .orImm 3 0x89ABCDEF), (0x000000000000A34C, .orReg 3 10),
   (0x89ABCDEF00000354, .andImm 3 0x89ABCDEF), (0x000000000000A35C, .andReg 3 10),
   (0x89ABCDEF00000364, .lshImm 3 0x89ABCDEF), (0x000000000000A36C, .lshReg 3 10),
   (0x89ABCDEF00000374, .rshImm 3 0x89ABCDEF), (0x000000000000A37C, .rshReg 3 10),
   (0x89ABCDEF000003A4, .xorImm 3 0x89ABCDEF), (0x000000000000A3AC, .xorReg 3 10),
   (0x89ABCDEF000003B4, .movImm 3 0x89ABCDEF), (0x000000000000A3BC, .movReg 3 10),
   (0x89ABCDEF000003C4, .ashImm 3 0x89ABCDEF), (0x000000000000A3CC, .ashReg 3 10),
   (0x00000020000003DC, .be 3 .swap32)] = true := by
  decide

theorem test_decode_control_flow : readsAll
  [(0x00000000FFF60005, .ja 0xFFF6), (0x89ABCDEFFFF60315, .jeqImm 3 0x89ABCDEF 0xFFF6),
   (0x00000000FFF6A31D, .jeqReg 3 10 0xFFF6), (0x89ABCDEFFFF60325, .jgtImm 3 0x89ABCDEF 0xFFF6),
   (0x00000000FFF6A32D, .jgtReg 3 10 0xFFF6), (0x89ABCDEFFFF60335, .jgeImm 3 0x89ABCDEF 0xFFF6),
   (0x00000000FFF6A33D, .jgeReg 3 10 0xFFF6), (0x89ABCDEFFFF60345, .jsetImm 3 0x89ABCDEF 0xFFF6),
   (0x00000000FFF6A34D, .jsetReg 3 10 0xFFF6), (0x89ABCDEFFFF60355, .jneImm 3 0x89ABCDEF 0xFFF6),
   (0x00000000FFF6A35D, .jneReg 3 10 0xFFF6), (0x89ABCDEFFFF60365, .jsgtImm 3 0x89ABCDEF 0xFFF6),
   (0x00000000FFF6A36D, .jsgtReg 3 10 0xFFF6), (0x89ABCDEFFFF60375, .jsgeImm 3 0x89ABCDEF 0xFFF6),
   (0x00000000FFF6A37D, .jsgeReg 3 10 0xFFF6), (0x00000000FFF60085, .call 0xFFF6), (0x000000000000908D, .callx 9),
   (0x0000000000000095, .exit), (0x89ABCDEFFFF603A5, .jltImm 3 0x89ABCDEF 0xFFF6),
   (0x00000000FFF6A3AD, .jltReg 3 10 0xFFF6), (0x89ABCDEFFFF603B5, .jleImm 3 0x89ABCDEF 0xFFF6),
   (0x00000000FFF6A3BD, .jleReg 3 10 0xFFF6), (0x89ABCDEFFFF603C5, .jsltImm 3 0x89ABCDEF 0xFFF6),
   (0x00000000FFF6A3CD, .jsltReg 3 10 0xFFF6), (0x89ABCDEFFFF603D5, .jsleImm 3 0x89ABCDEF 0xFFF6),
   (0x00000000FFF6A3DD, .jsleReg 3 10 0xFFF6)] = true := by
  decide

theorem test_decode_class6 : readsAll
  [(0x89ABCDEF00000336, .uhmul64Imm 3 0x89ABCDEF), (0x000000000000A33E, .uhmul64Reg 3 10),
   (0x89ABCDEF00000346, .udiv32Imm 3 0x89ABCDEF), (0x000000000000A34E, .udiv32Reg 3 10),
   (0x89ABCDEF00000356, .udiv64Imm 3 0x89ABCDEF), (0x000000000000A35E, .udiv64Reg 3 10),
   (0x89ABCDEF00000366, .urem32Imm 3 0x89ABCDEF), (0x000000000000A36E, .urem32Reg 3 10),
   (0x89ABCDEF00000376, .urem64Imm 3 0x89ABCDEF), (0x000000000000A37E, .urem64Reg 3 10),
   (0x89ABCDEF00000386, .lmul32Imm 3 0x89ABCDEF), (0x000000000000A38E, .lmul32Reg 3 10),
   (0x89ABCDEF00000396, .lmul64Imm 3 0x89ABCDEF), (0x000000000000A39E, .lmul64Reg 3 10),
   (0x89ABCDEF000003B6, .shmul64Imm 3 0x89ABCDEF), (0x000000000000A3BE, .shmul64Reg 3 10),
   (0x89ABCDEF000003C6, .sdiv32Imm 3 0x89ABCDEF), (0x000000000000A3CE, .sdiv32Reg 3 10),
   (0x89ABCDEF000003D6, .sdiv64Imm 3 0x89ABCDEF), (0x000000000000A3DE, .sdiv64Reg 3 10),
   (0x89ABCDEF000003E6, .srem32Imm 3 0x89ABCDEF), (0x000000000000A3EE, .srem32Reg 3 10),
   (0x89ABCDEF000003F6, .srem64Imm 3 0x89ABCDEF), (0x000000000000A3FE, .srem64Reg 3 10)] = true := by
  decide

theorem test_decode_class7 : readsAll
  [(0x89ABCDEF00000B07, .add64Imm 11 0x89ABCDEF), (0x000000000000A30F, .add64Reg 3 10),
   (0x89ABCDEF00000317, .sub64Imm 3 0x89ABCDEF), (0x000000000000A31F, .sub64Reg 3 10),
   (0x89ABCDEF00000347, .or64Imm 3 0x89ABCDEF), (0x000000000000A34F, .or64Reg 3 10),
   (0x89ABCDEF00000357, .and64Imm 3 0x89ABCDEF), (0x000000000000A35F, .and64Reg 3 10),
   (0x89ABCDEF00000367, .lsh64Imm 3 0x89ABCDEF), (0x000000000000A36F, .lsh64Reg 3 10),
   (0x89ABCDEF00000377, .rsh64Imm 3 0x89ABCDEF), (0x000000000000A37F, .rsh64Reg 3 10),
   (0x89ABCDEF000003A7, .xor64Imm 3 0x89ABCDEF), (0x000000000000A3AF, .xor64Reg 3 10),
   (0x89ABCDEF000003B7, .mov64Imm 3 0x89ABCDEF), (0x000000000000A3BF, .mov64Reg 3 10),
   (0x89ABCDEF000003C7, .ash64Imm 3 0x89ABCDEF), (0x000000000000A3CF, .ash64Reg 3 10),
   (0x89ABCDEF000003F7, .hor64 3 0x89ABCDEF)] = true := by
  decide

/-- What is wrong or right with a word (95_test_vectors.md 2.1), strict and not. -/
theorem test_decoding_outcomes : outcomesAll
  [(0x0, .invalidInstruction, .invalidInstruction), (0x18, .invalidInstruction, .invalidInstruction),
   (0xD4, .invalidInstruction, .invalidInstruction), (0x8C, .invalidInstruction, .invalidInstruction),
   (0x95, .reads, .reads), (0x195, .invalidInstruction, .reads), (0x100000095, .invalidInstruction, .reads),
   (0x500001107, .invalidInstruction, .reads), (0x50001010F, .invalidInstruction, .reads),
   (0x500000A07, .invalidRegister, .invalidRegister), (0x500000B07, .reads, .reads),
   (0xB0F, .invalidRegister, .invalidRegister), (0x500000B17, .invalidRegister, .invalidRegister),
   (0xB10F, .invalidRegister, .invalidRegister), (0xA10F, .reads, .reads),
   (0xC0F, .invalidRegister, .invalidRegister), (0xF10F, .invalidRegister, .invalidRegister),
   (0xABF, .invalidRegister, .invalidRegister), (0xA0BF, .reads, .reads), (0xFFF8A179, .reads, .reads),
   (0xFFF81A79, .invalidRegister, .invalidRegister), (0xFFF80A7B, .reads, .reads),
   (0xFFF80B7B, .invalidRegister, .invalidRegister), (0xFFF8B07B, .invalidRegister, .invalidRegister),
   (0x20A15, .invalidRegister, .invalidRegister), (0x2A11D, .reads, .reads),
   (0xA08D, .invalidRegister, .invalidRegister), (0x908D, .reads, .reads), (0x10000004DC, .reads, .reads),
   (0x8000004DC, .invalidInstruction, .invalidInstruction), (0x4DC, .invalidInstruction, .invalidInstruction),
   (0x40000024DC, .invalidInstruction, .reads), (0x4000000CDC, .invalidRegister, .invalidRegister),
   (0x800000CDC, .invalidRegister, .invalidRegister), (0x700000C18, .invalidInstruction, .invalidInstruction)] = true := by
  decide

/-- 96_test_vectors_families.md 2.2. -/
theorem test_class4 : computesAll
  [(0x100000104, 0xFFFFFFFFFFFFFFFF, 0x0, 0x0), (0xFFFFFFFF00000104, 0x0, 0x0, 0xFFFFFFFF),
   (0x210C, 0x123456789ABCDEF0, 0xFFFFFFFF00000010, 0x9ABCDF00), (0x110C, 0xC0000000, 0x0, 0x80000000),
   (0xA00000114, 0x3, 0x0, 0x7), (0x114, 0x1, 0x0, 0xFFFFFFFF), (0x211C, 0x3, 0xA, 0xFFFFFFF9),
   (0x111C, 0xDEADBEEFCAFEF00D, 0x0, 0x0), (0x8000000000000144, 0xFFFFFFFF00000001, 0x0, 0x80000001),
   (0x214C, 0xFF00FF, 0xFFFFFFFF0F0F0F0F, 0xFFF0FFF), (0xFFFF00000154, 0x123456789ABCDEF0, 0x0, 0xDEF0),
   (0xFFFFFFFF00000154, 0x123456789ABCDEF0, 0x0, 0x9ABCDEF0), (0x215C, 0xFFFFFFFFFFFFFFFF, 0xF0F0F0F0, 0xF0F0F0F0),
   (0x400000164, 0xF0000001, 0x0, 0x10), (0x2000000164, 0x12345678, 0x0, 0x12345678),
   (0x216C, 0x1, 0xFFFFFFFFFFFFFF24, 0x10), (0x400000174, 0xFFFFFFFF80000000, 0x0, 0x8000000),
   (0x2000000174, 0x80000000, 0x0, 0x80000000), (0x217C, 0x80000000, 0x1F, 0x1),
   (0xFFFFFFFF000001A4, 0xFF, 0x0, 0xFFFFFF00), (0x11AC, 0x123456789ABCDEF0, 0x0, 0x0),
   (0x21AC, 0xAAAAAAAA, 0x55555555, 0xFFFFFFFF), (0xFFFFFFFF000001B4, 0x0, 0x0, 0xFFFFFFFFFFFFFFFF),
   (0x7FFFFFFF000001B4, 0x1111111111111111, 0x0, 0x7FFFFFFF), (0x21BC, 0x0, 0x80000000, 0xFFFFFFFF80000000),
   (0x21BC, 0x0, 0xFFFFFFFF7FFFFFFF, 0x7FFFFFFF), (0x4000001C4, 0x80000000, 0x0, 0xF8000000),
   (0x1F000001C4, 0x80000000, 0x0, 0xFFFFFFFF), (0x21CC, 0xF0000000, 0x21, 0xF8000000),
   (0x10000001DC, 0x1122334455667788, 0x0, 0x8877), (0x20000001DC, 0x1122334455667788, 0x0, 0x88776655)] = true := by
  decide

/-- 96_test_vectors_families.md 2.3. -/
theorem test_class7 : computesAll
  [(0x100000107, 0xFFFFFFFFFFFFFFFF, 0x0, 0x0), (0xFFFFFFFF00000107, 0x0, 0x0, 0xFFFFFFFFFFFFFFFF),
   (0x210F, 0x7FFFFFFFFFFFFFFF, 0x1, 0x8000000000000000), (0xA00000117, 0x3, 0x0, 0x7),
   (0x117, 0x1, 0x0, 0xFFFFFFFFFFFFFFFF), (0x211F, 0x0, 0x1, 0xFFFFFFFFFFFFFFFF),
   (0x8000000000000147, 0x100000000, 0x0, 0x180000000), (0xFFFFFFFF00000147, 0x100000000, 0x0, 0x1FFFFFFFF),
   (0x214F, 0xFF00FF00FF00FF, 0xF0F0F0F0F0F0F0F, 0xFFF0FFF0FFF0FFF),
   (0xFFFFFFFF00000157, 0x123456789ABCDEF0, 0x0, 0x9ABCDEF0), (0xFF00000157, 0xFFFFFFFFFFFFFFFF, 0x0, 0xFF),
   (0x215F, 0xFFFFFFFFFFFFFFFF, 0xFFFF0000FFFF0000, 0xFFFF0000FFFF0000),
   (0x400000167, 0xF000000000000001, 0x0, 0x10), (0x2000000167, 0x12345678, 0x0, 0x1234567800000000),
   (0x216F, 0x1, 0xFFFFFFFFFFFFFF7F, 0x8000000000000000), (0x400000177, 0x8000000000000000, 0x0, 0x800000000000000),
   (0x3F00000177, 0x8000000000000000, 0x0, 0x1), (0x217F, 0x8000000000000000, 0x40, 0x8000000000000000),
   (0xFFFFFFFF000001A7, 0x0, 0x0, 0xFFFFFFFF), (0x11AF, 0x123456789ABCDEF0, 0x0, 0x0),
   (0x21AF, 0xAAAAAAAAAAAAAAAA, 0xFFFFFFFFFFFFFFFF, 0x5555555555555555), (0xFFFFFFFF000001B7, 0x0, 0x0, 0xFFFFFFFF),
   (0x7FFFFFFF000001B7, 0x1111111111111111, 0x0, 0x7FFFFFFF), (0x21BF, 0x0, 0xFEDCBA9876543210, 0xFEDCBA9876543210),
   (0x4000001C7, 0x8000000000000000, 0x0, 0xF800000000000000),
   (0x3F000001C7, 0x8000000000000000, 0x0, 0xFFFFFFFFFFFFFFFF), (0x21CF, 0x7000000000000000, 0x4, 0x700000000000000),
   (0x12345678000001F7, 0x9ABCDEF0, 0x0, 0x123456789ABCDEF0), (0xFFFFFFFF000001F7, 0x1, 0x0, 0xFFFFFFFF00000001)] = true := by
  decide

/-- 96_test_vectors_families.md 2.4. -/
theorem test_class6 : computesAll
  [(0x200000136, 0x8000000000000000, 0x0, 0x1), (0xFFFFFFFF00000136, 0xFFFFFFFFFFFFFFFF, 0x0, 0xFFFFFFFE),
   (0x213E, 0xFFFFFFFFFFFFFFFF, 0xFFFFFFFFFFFFFFFF, 0xFFFFFFFFFFFFFFFE), (0x213E, 0xFFFFFFFF, 0xFFFFFFFF, 0x0),
   (0x300000146, 0xFFFFFFFF0000000A, 0x0, 0x3), (0xFFFFFFFF00000146, 0xFFFFFFFF, 0x0, 0x1),
   (0x214E, 0x80000000, 0xFFFFFFFF, 0x0), (0xA00000156, 0xFFFFFFFFFFFFFFFF, 0x0, 0x1999999999999999),
   (0xFFFFFFFF00000156, 0xFFFFFFFFFFFFFFFF, 0x0, 0x100000001), (0x215E, 0x64, 0x100000000, 0x0),
   (0x300000166, 0xFFFFFFFF0000000A, 0x0, 0x1), (0x216E, 0xFFFFFFFF, 0x10, 0xF),
   (0xA00000176, 0xFFFFFFFFFFFFFFFF, 0x0, 0x5), (0x217E, 0x100000005, 0x100000000, 0x5),
   (0x300000186, 0xFFFFFFFF80000001, 0x0, 0x80000003), (0xFFFFFFFF00000186, 0x5, 0x0, 0xFFFFFFFB),
   (0x218E, 0x10000, 0x10000, 0x0), (0x218E, 0xFFFFFFFF, 0xFFFFFFFF, 0x1),
   (0x300000196, 0x8000000000000001, 0x0, 0x8000000000000003), (0xFFFFFFFF00000196, 0x5, 0x0, 0x4FFFFFFFB),
   (0x219E, 0xFFFFFFFFFFFFFFFF, 0xFFFFFFFFFFFFFFFF, 0x1), (0x219E, 0x100000000, 0x100000000, 0x0),
   (0xFFFFFFFF000001B6, 0x5, 0x0, 0xFFFFFFFFFFFFFFFF), (0x2000001B6, 0x4000000000000000, 0x0, 0x0),
   (0x21BE, 0xFFFFFFFFFFFFFFFF, 0xFFFFFFFFFFFFFFFF, 0xFFFFFFFFFFFFFFFF),
   (0x21BE, 0x8000000000000000, 0x8000000000000000, 0xC000000000000000), (0x3000001C6, 0xFFFFFFF6, 0x0, 0xFFFFFFFD),
   (0xFFFFFFFD000001C6, 0xA, 0x0, 0xFFFFFFFD), (0x21CE, 0x80000000, 0x2, 0xC0000000),
   (0x3000001D6, 0xFFFFFFFFFFFFFFF6, 0x0, 0xFFFFFFFFFFFFFFFD),
   (0xFFFFFFFF000001D6, 0x8000000000000000, 0x0, 0xFFFFFFFF80000000),
   (0x21DE, 0x8000000000000001, 0xFFFFFFFFFFFFFFFF, 0x7FFFFFFFFFFFFFFF), (0x21DE, 0x0, 0xFFFFFFFFFFFFFFFF, 0x0),
   (0x3000001E6, 0xFFFFFFF6, 0x0, 0xFFFFFFFF), (0xFFFFFFFD000001E6, 0xA, 0x0, 0x1),
   (0x21EE, 0xFFFFFFF9, 0x2, 0xFFFFFFFF), (0x3000001F6, 0xFFFFFFFFFFFFFFF6, 0x0, 0xFFFFFFFFFFFFFFFF),
   (0xFFFFFFFF000001F6, 0x8000000000000000, 0x0, 0xFFFFFFFF80000000),
   (0x21FE, 0xFFFFFFFFFFFFFFF9, 0xFFFFFFFFFFFFFFFE, 0xFFFFFFFFFFFFFFFF), (0x21FE, 0x7, 0xFFFFFFFFFFFFFFFF, 0x0),
   (0x115E, 0x9, 0x0, 0x1)] = true := by
  decide

/-- Zero divisors (96_test_vectors_families.md 2.4). -/
theorem test_class6_division_by_zero : panicsAll (.divisionByZero 0)
  [(0x146, 0x7, 0x0), (0x214E, 0x64, 0x100000000), (0x156, 0x1, 0x0), (0x215E, 0x5, 0x0), (0x166, 0x5, 0x0),
   (0x216E, 0x9, 0xFFFFFFFF00000000), (0x176, 0x5, 0x0), (0x217E, 0x5, 0x0), (0x1C6, 0x1, 0x0),
   (0x21CE, 0x7, 0x100000000), (0x1D6, 0x1, 0x0), (0x21DE, 0x1, 0x0), (0x1E6, 0x1, 0x0), (0x1F6, 0x1, 0x0)] = true := by
  decide

/-- The most negative dividend by -1 (96_test_vectors_families.md 2.4). -/
theorem test_class6_negative_overflow : panicsAll (.negativeOverflow 0)
  [(0xFFFFFFFF000001C6, 0x80000000, 0x0), (0x21CE, 0xAAAAAAAA80000000, 0x55555555FFFFFFFF),
   (0x21DE, 0x8000000000000000, 0xFFFFFFFFFFFFFFFF), (0xFFFFFFFF000001E6, 0x80000000, 0x0),
   (0x21FE, 0x8000000000000000, 0xFFFFFFFFFFFFFFFF)] = true := by
  decide

/-- 96_test_vectors_families.md 2.5, the loads. -/
theorem test_loads : loadsAll
  [(0x1071, 0, 0x10), (0xF2071, 0, 0x8F), (0x1069, 0, 0x1110), (0x11069, 0, 0x1211), (0x41061, 0, 0x17161514),
   (0x2061, 0, 0x83828180), (0x81079, 0, 0x1F1E1D1C1B1A1918), (0x31079, 0, 0x1A19181716151413),
   (0xC2079, 0, 0x939291908F8E8D8C), (0xFFF8A079, 0, 0x8F8E8D8C8B8A8988), (0x1014061, 0, 0x13121110),
   (0x1161, 1, 0x13121110)] = true := by
  decide

/-- 96_test_vectors_families.md 2.5, the stores: the bytes from an address up. -/
theorem test_stores : storesAll
  [(0x1FF00000272, 0x200, [0xff]), (0xABCD0001026A, 0x201, [0xcd, 0xab]),
   (0xFFFFFFFE00040262, 0x204, [0xfe, 0xff, 0xff, 0xff]),
   (0xFFFFFFFF0000027A, 0x200, [0xff, 0xff, 0xff, 0xff, 0x00, 0x00, 0x00, 0x00]),
   (0x123456780000027A, 0x200, [0x78, 0x56, 0x34, 0x12, 0x00, 0x00, 0x00, 0x00]), (0x3273, 0x200, [0x88]),
   (0x326B, 0x200, [0x88, 0x77]), (0x3263, 0x200, [0x88, 0x77, 0x66, 0x55]),
   (0x327B, 0x200, [0x88, 0x77, 0x66, 0x55, 0x44, 0x33, 0x22, 0x11]),
   (0xFFFC3A7B, 0x20c, [0x88, 0x77, 0x66, 0x55, 0x44, 0x33, 0x22, 0x11]),
   (0xAA7B, 0x210, [0x10, 0x02, 0x00, 0x00, 0x00, 0x00, 0x00, 0x00]),
   (0x227B, 0x200, [0x00, 0x02, 0x00, 0x00, 0x00, 0x00, 0x00, 0x00])] = true := by
  decide

/-- 96_test_vectors_families.md 2.5, the panics. -/
theorem test_memory_panics : memoryPanicsAll
  [(0x91079, .memoryOutOfBounds 0 0x109 8 .load), (0xFFFF1071, .memoryOutOfBounds 0 0xff 1 .load),
   (0x4071, .memoryOutOfBounds 0 0xffffffffffffffff 1 .load),
   (0x4069, .memoryOutOfBounds 0 0xffffffffffffffff 2 .load), (0x100000172, .accessViolation 0 0x100 1),
   (0x8317B, .accessViolation 0 0x108 8), (0xE3163, .memoryOutOfBounds 0 0x10e 4 .store),
   (0x11327B, .memoryOutOfBounds 0 0x211 8 .store), (0x80A72, .memoryOutOfBounds 0 0x218 1 .store)] = true := by
  decide

/-- The truth table of the eleven conditions (R253), through the register forms. -/
theorem test_conditions_of_the_register_forms : conditionsAll
  [(0x5, 0x5, [true, false, true, true, false, false, true, false, true, false, true]),
   (0x5, 0x6, [false, false, false, true, true, false, false, true, true, true, true]),
   (0x6, 0x5, [false, true, true, true, true, true, true, false, false, false, false]),
   (0x0, 0xFFFFFFFFFFFFFFFF, [false, false, false, false, true, true, true, true, true, false, false]),
   (0xFFFFFFFFFFFFFFFF, 0x0, [false, true, true, false, true, false, false, false, false, true, true]),
   (0x8000000000000000, 0x7FFFFFFFFFFFFFFF, [false, true, true, false, true, false, false, false, false, true, true]),
   (0x7FFFFFFFFFFFFFFF, 0x8000000000000000, [false, false, false, false, true, true, true, true, true, false, false]),
   (0xFFFFFFFFFFFFFFFF, 0xFFFFFFFFFFFFFFFE, [false, true, true, true, true, true, true, false, false, false, false]),
   (0xFFFFFFFF, 0xFFFFFFFFFFFFFFFF, [false, false, false, true, true, true, true, true, true, false, false]),
   (0xF0, 0xF, [false, true, true, false, true, true, true, false, false, false, false])] = true := by
  decide

/-- 96_test_vectors_families.md 2.6, the jumps. -/
theorem test_jumps : jumpsAll
  [(2, 0x30005, 0x0, 0x0, 0x0, .ok 6), (2, 0x5, 0x0, 0x0, 0x0, .ok 3), (5, 0xFFFA0005, 0x0, 0x0, 0x0, .ok 0),
   (5, 0xFFF90005, 0x0, 0x0, 0x0, .error (-1)), (5, 0x20005, 0x0, 0x0, 0x0, .error 8),
   (7, 0xFFFF0005, 0x0, 0x0, 0x0, .ok 7), (9, 0xFFFE0005, 0x0, 0x0, 0x0, .ok 8),
   (9, 0xFFFD0005, 0x0, 0x0, 0x0, .error 7), (15, 0x5, 0x0, 0x0, 0x0, .error 16), (2, 0x30115, 0x0, 0x0, 0x0, .ok 6),
   (2, 0x30115, 0x1, 0x0, 0x0, .ok 3), (2, 0xFFFFFFFF00030115, 0xFFFFFFFFFFFFFFFF, 0x0, 0x0, .ok 6),
   (2, 0xFFFFFFFF00030115, 0xFFFFFFFF, 0x0, 0x0, .ok 3),
   (2, 0xFFFFFFFF00030125, 0xFFFFFFFFFFFFFFFF, 0x0, 0x0, .ok 3),
   (2, 0x7FFFFFFF00030125, 0x80000000, 0x0, 0x0, .ok 6), (2, 0xFFFFFFFF000301A5, 0x100000000, 0x0, 0x0, .ok 6),
   (2, 0xFFFFFFFF00030165, 0x0, 0x0, 0x0, .ok 6), (2, 0x301C5, 0x8000000000000000, 0x0, 0x0, .ok 6),
   (2, 0x8000000000030145, 0x100000000, 0x0, 0x0, .ok 6), (2, 0x100030145, 0xFFFFFFFFFFFFFFFE, 0x0, 0x0, .ok 3),
   (2, 0x3215D, 0x5, 0x5, 0x0, .ok 3), (2, 0xFFFDA13D, 0x200001000, 0x0, 0x200001000, .ok 0),
   (2, 0x321DD, 0x8000000000000000, 0x7FFFFFFFFFFFFFFF, 0x0, .ok 6), (2, 0x311BD, 0x1234, 0x1234, 0x0, .ok 6),
   (2, 0x50115, 0x1, 0x0, 0x0, .error 8), (2, 0x50115, 0x0, 0x0, 0x0, .error 8),
   (7, 0xFFFD0115, 0x1, 0x0, 0x0, .error 8), (7, 0xFFFD0115, 0x0, 0x0, 0x0, .ok 5)] = true := by
  decide

/-- 96_test_vectors_families.md 2.6, the calls and `exit`. -/
theorem test_calls_and_exit : callsAll
  [(1, [], 0x10085, 0x0, .running, 3, [2]), (1, [], 0xFFFE0085, 0x0, .running, 0, [2]),
   (1, [], 0x40085, 0x0, .faulted (.targetOutOfBounds 1 (.slot 6)), 1, []),
   (1, [], 0xFFFD0085, 0x0, .faulted (.targetOutOfBounds 1 (.slot (-1))), 1, []),
   (1, [], 0x30085, 0x0, .running, 5, [2]), (2, [], 0x85, 0x0, .faulted (.targetOutOfBounds 2 (.slot 3)), 2, []),
   (4, [2], 0xFFFB0085, 0x0, .running, 0, [2, 5]),
   (4, [2, 5], 0xFFFB0085, 0x0, .faulted (.stackOverflow 4), 4, [2, 5]),
   (4, [2, 5], 0x140085, 0x0, .faulted (.stackOverflow 4), 4, [2, 5]),
   (1, [], 0x308D, 0x100000018, .running, 3, [2]), (1, [], 0x308D, 0x100000000, .running, 0, [2]),
   (1, [], 0x308D, 0x10000001C, .faulted (.targetOutOfBounds 1 (.address 0x10000001C)), 1, []),
   (1, [], 0x308D, 0x100000030, .faulted (.targetOutOfBounds 1 (.address 0x100000030)), 1, []),
   (1, [], 0x308D, 0xFFFFFFF8, .faulted (.targetOutOfBounds 1 (.address 0xFFFFFFF8)), 1, []),
   (1, [], 0x308D, 0x3, .faulted (.targetOutOfBounds 1 (.address 0x3)), 1, []), (4, [2], 0x95, 0x0, .running, 2, []),
   (4, [], 0x95, 0x0, .halted, 4, []), (1, [2, 5], 0x95, 0x0, .running, 5, [2])] = true := by
  decide

/-! ## The reading switches (R5), invalid programs, the sequential advance -/

/-- 96_test_vectors_families.md 2.3 to 2.5: the tables under the two settings of a switch. -/
theorem test_switches :
    (after (exec (.shmul64Imm 1 2) { one 0 0xFFFFFFFFFFFFFFFF 0 with
      params := { (one 0 0 0).params with shmul64DstExt := .sext } })).map (State.reg · 1) =
        some (.holds 0xFFFFFFFFFFFFFFFF) ∧
    (after (exec (.shmul64Reg 1 2) { one 0 0x8000000000000000 0x8000000000000000 with
      params := { (one 0 0 0).params with shmul64DstExt := .sext } })).map (State.reg · 1) =
        some (.holds 0x4000000000000000) ∧
    (after (exec (.stdw 2 0 0xFFFFFFFF) { one 0 0 0x200 with
      params := { (one 0 0 0).params with stdwImmExt := .sext } })).map (readBytes ·.mem 0x200 8) =
        some 0xFFFFFFFFFFFFFFFF ∧
    (after (exec (.or64Imm 1 0x80000000) { one 0 0x100000000 0 with
      params := { (one 0 0 0).params with imm64LogicExt := .sext } })).map (State.reg · 1) =
        some (.holds 0xFFFFFFFF80000000) := by decide

/-- Slot 1 is the last of its function (95_test_vectors.md 2.7); `r1 = 7`, `r2 = 0`,
and `r10 = 0x210`, the writable region of eight bytes here. -/
def lastSlot (w : Word) : State :=
  { bench [exitWord, w, exitWord, exitWord] [⟨0, 2⟩, ⟨2, 4⟩] 1 7 0 0x210 with mem := [] }

theorem test_fault_priority :
    after (step (lastSlot 0x100000107)) =
      some { lastSlot 0x100000107 with status := .faulted (.targetOutOfBounds 1 (.slot 2)) } ∧
    after (step (lastSlot 0x215E)) = some { lastSlot 0x215E with status := .faulted (.divisionByZero 1) } ∧
    after (step (lastSlot 0x1A7B)) =
      some { lastSlot 0x1A7B with status := .faulted (.targetOutOfBounds 1 (.slot 2)) } ∧
    after (step (lastSlot 0x8A179)) =
      some { lastSlot 0x8A179 with status := .faulted (.memoryOutOfBounds 1 0x218 8 .load) } ∧
    after (step (lastSlot 0xFFFE0005)) = some { lastSlot 0xFFFE0005 with pc := 0 } ∧
    after (step (lastSlot 0x95)) = some { lastSlot 0x95 with status := .halted } := by decide

/-- The word placed by `withFetchWord` is the one the next step runs, from reset too: `add64 r1, 5`, and at the slot of
a text that is there already. -/
theorem test_withFetchWord :
    (after (step (State.reset.withFetchWord 64 0x500000107))).map (fun t => (t.reg 1, t.pc)) = some (.holds 5, 1) ∧
    (after (step ((lastSlot 0x95).withFetchWord 64 0xFFFE0005))).map State.pc = some 0 ∧
    decodeTableWord 64 0x500000107 = some (.add64Imm 1 5) := by decide

/-! ## Witnesses: states and operands that meet the hypotheses of the statements -/

/-- What answers a state is that next state. -/
theorem next_of_after {o : Out} {t : State} (h : after o = some t) : o = .next t := by
  cases o with
  | next u => cases h; rfl
  | fault _ => cases h
  | refused _ => cases h

/-- `bench` with one function of eight slots and the instruction in slot 2. -/
def middle (w a b : Word) : State := bench ((List.replicate 8 exitWord).set 2 w) [⟨0, 8⟩] 2 a b 0x210

/-- The same with the instruction in the last slot. -/
def atEnd (w a b : Word) : State := bench ((List.replicate 8 exitWord).set 7 w) [⟨0, 8⟩] 7 a b 0x210

/-- A full call stack of four frames. -/
def full (s : State) : State := { s with cs := List.replicate 4 ⟨1, []⟩ }

/-- One frame. -/
def nested (s : State) : State := { s with cs := [⟨5, []⟩] }

/-- The state with `r2` holding no value. -/
def withoutR2 (s : State) : State := { s with regs := s.regs.set 2 .unwritten }

/-! ### Encoding -/

theorem witness_DecodingUndoesEncoding :
    (Instr.add64Imm 11 0xFFFFFFC0).wellFormed = true ∧ (Instr.stxw 10 0x8000 10).wellFormed = true := by decide

theorem witness_EncodingUndoesDecoding : decode true 0xFFFFFFC000000B07 = .ok (.add64Imm 11 0xFFFFFFC0) := rfl

/-- Not strict, with a non-zero unused field; and the right side of the equivalence, strict. -/
theorem witness_DecodingReadsExactlyTheUsedBits :
    decode false 0x0000000500001107 = .ok (.add64Imm 1 5) ∧
    ((Instr.add64Imm 1 5).wellFormed = true ∧
      (0x0000000500000107 : Word) &&& usedBits (.add64Imm 1 5) = encode (.add64Imm 1 5) ∧
      (true = true → (0x0000000500000107 : Word) = encode (.add64Imm 1 5))) := ⟨rfl, by decide⟩

/-- A well-formed program: `ja -1` alone in its function, and `exit`. -/
def goodParams : Params := { (one 0xFFFF0005 0 0).params with functions := [⟨0, 1⟩, ⟨1, 2⟩] }

theorem witness_ReservedOpcodesAreNoInstructions :
    decode true 0x18 = .error .reservedOpcode ∧ 0xFF ∈ reservedBytes ∧
    (programWellFormed goodParams = true ∧ (0x95 : Word) ∈ goodParams.text) ∧
    (one 0xFF 0 0).status = .running ∧ fetch (one 0xFF 0 0) = some 0xFF ∧ (opcField 0xFF).toNat ∈ reservedBytes :=
  ⟨rfl, by decide, by decide, rfl, rfl, by decide⟩

theorem witness_RegisterValidityIsTheTable :
    (Assigned 0xA08D ∧ ¬ RegistersAllowed 0xA08D) ∧ (Assigned 0x908D ∧ RegistersAllowed 0x908D) ∧
    decode true 0xFFFFFFC000000B07 = .ok (.add64Imm 11 0xFFFFFFC0) := by
  refine ⟨⟨?_, ?_⟩, ⟨?_, ?_⟩, rfl⟩
  · unfold Assigned; decide
  · unfold RegistersAllowed; decide
  · unfold Assigned; decide
  · unfold RegistersAllowed; decide

/-- Fetched: an invalid register; a reserved opcode; an unused field that is not zero; a bad selector. -/
theorem witness_ValidWordsDecodeAndInvalidWordsFault :
    (programWellFormed goodParams = true ∧ (0x95 : Word) ∈ goodParams.text) ∧
    ((one 0xA08D 0 0).status = .running ∧ fetch (one 0xA08D 0 0) = some 0xA08D ∧
      ¬ Valid (one 0xA08D 0 0).params.strictUnusedFields 0xA08D ∧ Assigned 0xA08D ∧ ¬ RegistersAllowed 0xA08D) ∧
    (fetch (one 0x18 0 0) = some 0x18 ∧ ¬ Valid (one 0x18 0 0).params.strictUnusedFields 0x18 ∧
      ¬ (Assigned 0x18 ∧ ¬ RegistersAllowed 0x18)) ∧
    (fetch (one 0x195 0 0) = some 0x195 ∧ ¬ Valid (one 0x195 0 0).params.strictUnusedFields 0x195 ∧
      ¬ (Assigned 0x195 ∧ ¬ RegistersAllowed 0x195)) ∧
    (fetch (one 0x8000004DC 0 0) = some 0x8000004DC ∧
      ¬ Valid (one 0x8000004DC 0 0).params.strictUnusedFields 0x8000004DC ∧
      ¬ (Assigned 0x8000004DC ∧ ¬ RegistersAllowed 0x8000004DC)) := by
  have reg := witness_RegisterValidityIsTheTable.1
  refine ⟨by decide, ⟨rfl, rfl, fun h => reg.2 h.2.1, reg⟩, ⟨rfl, fun h => absurd h.1 ?_, fun h => absurd h.1 ?_⟩,
    ⟨rfl, fun h => absurd (h.2.2.2 rfl).1 ?_, fun h => h.2 ?_⟩,
    ⟨rfl, fun h => absurd (h.2.2.1 rfl) (by decide), fun h => h.2 ?_⟩⟩
  · unfold Assigned; decide
  · unfold Assigned; decide
  · unfold UnusedRegistersZero; decide
  · unfold RegistersAllowed; decide
  · unfold RegistersAllowed; decide

/-! ### The machine -/

theorem witness_StepRunsTheDecodedInstruction :
    (one 0x500000107 0 0).status = .running ∧ (one 0x500000107 0 0).params.text[(one 0x500000107 0 0).pc]? =
      some 0x500000107 ∧
    decode (one 0x500000107 0 0).params.strictUnusedFields 0x500000107 = .ok (.add64Imm 1 5) := ⟨rfl, rfl, rfl⟩

theorem one_live : (one 0x500000107 0 0).Live := ⟨by decide, by decide, by decide⟩

theorem bench_written : (one 0x500000107 0 0).AllWritten := by
  show ∀ r : Reg, (one 0x500000107 0 0).reg r ≠ .unwritten
  decide

/-- Live and running with every register written; with `r2` unwritten and read; halted; faulted. -/
theorem witness_StepIsTotalWhileRunning :
    ((one 0x500000107 0 0).Live ∧ (one 0x500000107 0 0).status = .running ∧ (one 0x500000107 0 0).AllWritten) ∧
    ((withoutR2 (one 0x210F 0 0)).Live ∧ (withoutR2 (one 0x210F 0 0)).status = .running) ∧
    (State.status { one 0 0 0 with status := .halted } = .halted) ∧
    State.status { one 0 0 0 with status := .faulted (.stackOverflow 0) } = .faulted (.stackOverflow 0) :=
  ⟨⟨one_live, rfl, bench_written⟩, ⟨⟨by decide, by decide, by decide⟩, rfl⟩, rfl, rfl⟩

theorem witness_PanicsArePreciseAndTerminal :
    (one 0x156 7 0).status = .running ∧
    exec (.udiv64Imm 1 0) (one 0x156 7 0) = .next (afterPanic (one 0x156 7 0) (.divisionByZero 0)) ∧
    step (one 0x156 7 0) = .next (afterPanic (one 0x156 7 0) (.divisionByZero 0)) ∧
    (afterPanic (one 0x156 7 0) (.divisionByZero 0)).status = .faulted (.divisionByZero 0) :=
  ⟨rfl, next_of_after (by decide), next_of_after (by decide), rfl⟩

theorem witness_ParametersNeverChange :
    exec (.add64Imm 1 5) (one 0x500000107 0 0) = .next (afterWrite (one 0x500000107 0 0) 1 5) ∧
    step (one 0x500000107 0 0) = .next (afterWrite (one 0x500000107 0 0) 1 5) :=
  ⟨next_of_after (by decide), next_of_after (by decide)⟩

/-- A store of zeros over listed bytes (`stdw [r1+0], 0` at `0x200`), and the call that fills the call stack. -/
theorem witness_EveryStepKeepsTheCanonicalForm :
    ((one 0x17A 0x200 0).Canonical ∧ ∃ t, step (one 0x17A 0x200 0) = .next t ∧ t.mem ≠ (one 0x17A 0x200 0).mem) ∧
    (State.Canonical { middle 0x10085 0 0 with cs := List.replicate 3 ⟨1, []⟩ } ∧
      ∃ t, step { middle 0x10085 0 0 with cs := List.replicate 3 ⟨1, []⟩ } = .next t ∧ t.cs.length = 4) :=
  ⟨⟨⟨by decide, by decide, by decide⟩, _, next_of_after rfl, by decide⟩,
   ⟨by decide, by decide, by decide⟩, _, next_of_after rfl, by decide⟩

/-- A jump, a call, and a return to the last slot. -/
theorem witness_EveryStepKeepsTheLaunchInvariant :
    ((middle 0x40005 0 0).Live ∧ step (middle 0x40005 0 0) = .next { middle 0x40005 0 0 with pc := 7 }) ∧
    ((middle 0x40085 0 0).Live ∧ ∃ t, step (middle 0x40085 0 0) = .next t ∧ t.cs = [⟨3, []⟩]) ∧
    (State.Live { middle 0x95 0 0 with cs := [⟨7, []⟩] } ∧
      ∃ t, step { middle 0x95 0 0 with cs := [⟨7, []⟩] } = .next t ∧ t.pc = 7) :=
  ⟨⟨⟨by decide, by decide, by decide⟩, next_of_after (by decide)⟩,
   ⟨⟨by decide, by decide, by decide⟩, _, next_of_after rfl, by decide⟩,
   ⟨⟨by decide, by decide, by decide⟩, _, next_of_after rfl, by decide⟩⟩

theorem witness_EveryStepKeepsRegistersWritten :
    ((one 0x500000107 0 0).AllWritten ∧ (one 0x500000107 0 0).params.hooks = .identity) ∧
    step (one 0x500000107 0 0) = .next (afterWrite (one 0x500000107 0 0) 1 5) :=
  ⟨⟨bench_written, rfl⟩, witness_ParametersNeverChange.2⟩

/-- Input for a launch: a division by zero behind a `mov64`, and the last two bytes of the memory map set. -/
def divideByZero : LaunchInput where
  params := { (one 0 0 0).params with text := [0x5000000B7, 0x46, 0x95], functions := [⟨0, 3⟩] }
  initMem := [(0x216, 1), (0x217, 2)]
  initRegs := (Vector.replicate 12 .unwritten)

theorem witness_LaunchStateIsTheTable : ∃ s, launch divideByZero = some s ∧
    Mapped divideByZero.params.memMap 0x217 ∧ (0x217, 2) ∈ divideByZero.initMem ∧
    ∀ c ∈ divideByZero.initMem, c.1 = 0x217 → c.2 = 2 := by
  refine ⟨_, rfl, ?_, by decide, by decide⟩
  unfold Mapped; decide

/-- The conditions of R291, each broken in turn: an empty text; a slot in two functions; `ENTRY` at the end; a region past
`2^64`; overlapping regions; a misaligned `TEXT_BASE`; a text past `2^64`. -/
theorem witness_LaunchRefusesBadInputOnly : (launch divideByZero).isSome = true ∧
    [{ divideByZero.params with text := [], functions := [] },
     { divideByZero.params with functions := [⟨0, 2⟩, ⟨1, 3⟩] },
     { divideByZero.params with entry := 3 },
     { divideByZero.params with memMap := [⟨0xFFFFFFFFFFFFFFFF, 2, true⟩] },
     { divideByZero.params with memMap := [⟨0, 2, true⟩, ⟨1, 2, true⟩] },
     { divideByZero.params with textBase := 4 },
     { divideByZero.params with textBase := 0xFFFFFFFFFFFFFFF0 }].all (fun p =>
      (launch { divideByZero with params := p }).isNone) = true := by decide

theorem witness_WellFormedProgramsPanicOnDataOnly :
    (∃ s t, State.Live s ∧ programWellFormed s.params = true ∧ step s = .next t ∧
      t.status = .faulted (.divisionByZero 0)) ∧
    (∃ s t, State.Live s ∧ programWellFormed s.params = true ∧ step s = .next t ∧
      t.status = .faulted (.targetOutOfBounds 0 (.address 7)) ∧ s.reg 1 = .holds 7) ∧
    ∃ s, launch divideByZero = some s ∧ programWellFormed divideByZero.params = true ∧
      ∃ t : State, Sys2Proof.core.run 2 s = .next t ∧ t.status = .faulted (.divisionByZero 1) :=
  ⟨⟨one 0x156 7 0, _, ⟨by decide, by decide, by decide⟩, by decide, next_of_after rfl, by decide⟩,
   ⟨one 0x108D 7 0, _, ⟨by decide, by decide, by decide⟩, by decide, next_of_after rfl, by decide, by decide⟩,
   _, rfl, by decide, _, rfl, by decide⟩

/-- With `add64 r11, -64` as the instruction. -/
theorem witness_FramePointerIsNeverWritten :
    (one 0xFFFFFFC000000B07 0 0).params.hooks = .identity ∧
    step (one 0xFFFFFFC000000B07 0 0) = .next (afterWrite (one 0xFFFFFFC000000B07 0 0) 11 0xFFFFFFFFFFFFFFC0) :=
  ⟨rfl, next_of_after (by decide)⟩

theorem witness_StackPointerIsUnobservable :
    (one 0xFFFFFFC000000B07 0 0).params.hooks = .identity ∧
    AgreeButStackPointer (one 0xFFFFFFC000000B07 0 0) ((one 0xFFFFFFC000000B07 0 0).setReg 11 8) ∧
    step (one 0xFFFFFFC000000B07 0 0) = .next (afterWrite (one 0xFFFFFFC000000B07 0 0) 11 0xFFFFFFFFFFFFFFC0) := by
  refine ⟨rfl, ⟨?_, by decide, by decide, rfl, rfl, rfl, rfl, rfl⟩, witness_FramePointerIsNeverWritten.2⟩
  decide

theorem witness_UnwrittenRegisterReadIsRefused :
    (∃ r ∈ reads (.add64Reg 1 2), (withoutR2 (one 0x210F 0 0)).reg r = .unwritten) ∧
    fnAt (withoutR2 (one 0 0 0)).params (withoutR2 (one 0 0 0)).pc = some ⟨0, 2⟩ ∧
    ∀ r ∈ reads (.mov64Imm 2 5), (withoutR2 (one 0 0 0)).reg r ≠ .unwritten := by decide

/-- Every panic an instruction can raise, raised. -/
theorem witness_EachInstructionRaisesOnlyItsPanics :
    ([(.udiv32Imm 1 0, .divisionByZero 0), (.sdiv64Reg 1 2, .negativeOverflow 0),
      (.ldxb 0 2 0, .memoryOutOfBounds 0 0xFFFFFFFFFFFFFFFF 1 .load),
      (.stxb 2 0 1, .memoryOutOfBounds 0 0xFFFFFFFFFFFFFFFF 1 .store), (.stb 2 0x110 0, .accessViolation 0 0x10F 1),
      (.ja 1, .targetOutOfBounds 0 (.slot 2)), (.callx 1, .targetOutOfBounds 0 (.address 0x8000000000000000)),
      (.call 2, .targetOutOfBounds 0 (.slot 3))] : List (Instr × Panic)).all (fun (i, p) =>
        after (exec i (one 0 0x8000000000000000 0xFFFFFFFFFFFFFFFF)) ==
          some (afterPanic (one 0 0x8000000000000000 0xFFFFFFFFFFFFFFFF) p)) = true ∧
    exec (.call 0) (full (one 0 0 0)) = .next (afterPanic (full (one 0 0 0)) (.stackOverflow 0)) ∧
    exec (.addImm 1 5) (atEnd 0 0 0) = .next (afterPanic (atEnd 0 0 0) (.targetOutOfBounds 7 (.slot 8))) ∧
    (one 0 0x8000000000000000 0xFFFFFFFFFFFFFFFF).status = .running ∧ (full (one 0 0 0)).status = .running ∧
    (atEnd 0 0 0).status = .running :=
  ⟨by decide, next_of_after (by decide), next_of_after (by decide), rfl, rfl, rfl⟩

/-- In the last slot, and the same state under a longer function: an instruction that completes there (`add64`), one with an
own panic (`udiv64` by zero) and a store. -/
theorem witness_SequentialAdvanceIsChecked :
    (isSequential (.add64Imm 1 5) = true ∧ (one 0 0 0).status = .running ∧
      exec (.add64Imm 1 5) (one 0 0 0) = .next (afterWrite (one 0 0 0) 1 5)) ∧
    fnAt (atEnd 0 0 0).params (atEnd 0 0 0).pc = some ⟨0, 8⟩ ∧ 8 ≤ (atEnd 0 0 0).pc + 1 ∧
    (∀ i ∈ ([.add64Reg 1 2, .udiv64Reg 1 2, .stxb 1 0 2] : List Instr), isSequential i = true ∧
      ∀ r ∈ reads i, (atEnd 0 0 0).reg r ≠ .unwritten) ∧
    canAdvance (withFunctions (atEnd 0 0 0) [⟨0, 9⟩]) = true ∧
    exec (.udiv64Reg 1 2) (withFunctions (atEnd 0 0 0) [⟨0, 9⟩]) =
      .next (afterPanic (withFunctions (atEnd 0 0 0) [⟨0, 9⟩]) (.divisionByZero 7)) ∧
    exec (.udiv64Reg 1 2) (atEnd 0 0 0) = .next (afterPanic (atEnd 0 0 0) (.divisionByZero 7)) :=
  ⟨⟨rfl, rfl, next_of_after (by decide)⟩, by decide, by decide, by decide, by decide, next_of_after (by decide),
   next_of_after (by decide)⟩

/-! ### Arithmetic: a state that can advance with its operands written; `dst = src`, `r10` as source, `r11` -/

/-- What the statements on arithmetic ask of a state: room to advance, and the operands' values. -/
def Ready (s : State) (dst src : Reg) (a b : Word) : Prop :=
  canAdvance s = true ∧ s.reg dst = .holds a ∧ s.reg src = .holds b

theorem witness_ArithmeticAndLogic32 :
    Ready (one 0 0xFFFFFFFFFFFFFFFF 1) 1 2 0xFFFFFFFFFFFFFFFF 1 ∧ Ready (one 0 5 0) 1 1 5 5 :=
  ⟨⟨by decide, by decide, by decide⟩, by decide, by decide, by decide⟩

/-- Counts 32 and 63. -/
theorem witness_Shifts32 : Ready (one 0 0x80000000 32) 1 2 0x80000000 32 ∧ Ready (one 0 63 0) 1 1 63 63 :=
  ⟨⟨by decide, by decide, by decide⟩, by decide, by decide, by decide⟩

theorem witness_Move32 : Ready (middle 0 0 0x80000000) 1 10 0 0x210 := ⟨by decide, by decide, by decide⟩

theorem witness_ByteSwapReversesLowBytes : Ready (one 0 0x1122334455667788 0) 1 1 0x1122334455667788 0x1122334455667788 ∧
    opcField 0x40000004DC = 0xDC ∧ decode true 0x40000004DC = .ok (.be 4 .swap64) :=
  ⟨⟨by decide, by decide, by decide⟩, rfl, rfl⟩

theorem witness_ArithmeticAndLogic64 :
    Ready (one 0 0xFFFFFFFFFFFFFFFF 1) 1 2 0xFFFFFFFFFFFFFFFF 1 ∧ Ready (one 0 5 0) 11 1 0 5 ∧
    Ready { one 0 5 6 with params := { (one 0 0 0).params with imm64LogicExt := .sext } } 1 2 5 6 :=
  ⟨⟨by decide, by decide, by decide⟩, ⟨by decide, by decide, by decide⟩, by decide, by decide, by decide⟩

/-- Counts 64 and 127. -/
theorem witness_Shifts64 : Ready (one 0 0x8000000000000000 64) 1 2 0x8000000000000000 64 ∧
    Ready (one 0 127 0) 1 1 127 127 := ⟨⟨by decide, by decide, by decide⟩, by decide, by decide, by decide⟩

theorem witness_Move64AndHighOr : Ready (middle 0 7 0) 1 10 7 0x210 := ⟨by decide, by decide, by decide⟩

theorem witness_UnsignedHighAndLowProducts :
    Ready (one 0 0xFFFFFFFFFFFFFFFF 0xFFFFFFFFFFFFFFFF) 1 2 0xFFFFFFFFFFFFFFFF 0xFFFFFFFFFFFFFFFF :=
  ⟨by decide, by decide, by decide⟩

theorem witness_SignedHighProduct :
    Ready (one 0 0x8000000000000000 0x8000000000000000) 1 2 0x8000000000000000 0x8000000000000000 ∧
    Ready { one 0 5 6 with params := { (one 0 0 0).params with shmul64DstExt := .sext } } 1 2 5 6 :=
  ⟨⟨by decide, by decide, by decide⟩, by decide, by decide, by decide⟩

/-- The zero divisor, with a low half of 0 under a high half that is not; and a divisor of 1. -/
theorem witness_UnsignedQuotientAndRemainder :
    (Ready (one 0 7 0x100000000) 1 2 7 0x100000000 ∧ ((low32 0x100000000 : Nat) : Int) = 0) ∧
    (Ready (one 0 7 0) 1 2 7 0 ∧ (((0 : Word).toNat : Nat) : Int) = 0 ∧ (((0 : Imm).toNat : Nat) : Int) = 0) ∧
    Ready (one 0 7 1) 1 2 7 1 ∧ ((low32 1 : Nat) : Int) ≠ 0 ∧ (((1 : Imm).toNat : Nat) : Int) ≠ 0 :=
  ⟨⟨⟨by decide, by decide, by decide⟩, by decide⟩, ⟨⟨by decide, by decide, by decide⟩, by decide, by decide⟩,
   ⟨by decide, by decide, by decide⟩, by decide, by decide⟩

/-- The zero divisor; the overflow in both widths; and the neighbours of the overflow, `-2^63 + 1` by -1. -/
theorem witness_SignedQuotient :
    (Ready (one 0 7 0x100000000) 1 2 7 0x100000000 ∧ sgn 32 (low32 0x100000000) = 0) ∧
    (Ready (one 0 0x80000000 0xFFFFFFFF) 1 2 0x80000000 0xFFFFFFFF ∧ sgn 32 (low32 0xFFFFFFFF) = -1 ∧
      sgn 32 (low32 0x80000000) = -2 ^ 31 ∧ sgn 32 (0xFFFFFFFF : Imm).toNat = -1) ∧
    (Ready (one 0 0x8000000000000000 0xFFFFFFFFFFFFFFFF) 1 2 0x8000000000000000 0xFFFFFFFFFFFFFFFF ∧
      sgn 64 (0xFFFFFFFFFFFFFFFF : Word).toNat = -1 ∧ sgn 64 (0x8000000000000000 : Word).toNat = -2 ^ 63) ∧
    Ready (one 0 0x8000000000000001 0xFFFFFFFFFFFFFFFF) 1 2 0x8000000000000001 0xFFFFFFFFFFFFFFFF ∧
    ¬ (sgn 64 (0xFFFFFFFFFFFFFFFF : Word).toNat = -1 ∧ sgn 64 (0x8000000000000001 : Word).toNat = -2 ^ 63) :=
  ⟨⟨⟨by decide, by decide, by decide⟩, by decide⟩, ⟨⟨by decide, by decide, by decide⟩, by decide, by decide, by decide⟩,
   ⟨⟨by decide, by decide, by decide⟩, by decide, by decide⟩, ⟨by decide, by decide, by decide⟩, by decide⟩

/-- The same states meet the clauses of the remainder; a remainder that completes. -/
theorem witness_SignedRemainder :
    (Ready (one 0 7 0x100000000) 1 2 7 0x100000000 ∧ sgn 32 (low32 0x100000000) = 0) ∧
    (Ready (one 0 0x80000000 0xFFFFFFFF) 1 2 0x80000000 0xFFFFFFFF ∧ sgn 32 (low32 0xFFFFFFFF) = -1 ∧
      sgn 32 (low32 0x80000000) = -2 ^ 31) ∧
    Ready (one 0 7 0xFFFFFFFFFFFFFFFF) 1 2 7 0xFFFFFFFFFFFFFFFF ∧ sgn 64 (7 : Word).toNat ≠ -2 ^ 63 :=
  ⟨witness_SignedQuotient.1, ⟨witness_SignedQuotient.2.1.1, by decide, by decide⟩,
   ⟨by decide, by decide, by decide⟩, by decide⟩

theorem witness_DivisionByZeroExactly :
    ((one 0 7 0x100000000).reg 1 = .holds 7 ∧ (one 0 7 0x100000000).reg 2 = .holds 0x100000000 ∧
      DivForm.divisor .srem32Reg 0x100000000 0 = 0) ∧
    (one 0 7 0).status = .running ∧
    exec (.urem64Imm 1 0) (one 0 7 0) = .next (afterPanic (one 0 7 0) (.divisionByZero 0)) :=
  ⟨⟨by decide, by decide, by decide⟩, rfl, next_of_after (by decide)⟩

theorem witness_NegativeOverflowExactly :
    ((one 0 0x8000000000000000 0xFFFFFFFFFFFFFFFF).reg 1 = .holds 0x8000000000000000 ∧
      (one 0 0x8000000000000000 0xFFFFFFFFFFFFFFFF).reg 2 = .holds 0xFFFFFFFFFFFFFFFF ∧
      DivForm.overflows .sdiv64Reg 0x8000000000000000 0xFFFFFFFFFFFFFFFF 0) ∧
    DivForm.overflows .srem32Imm 0xAAAAAAAA80000000 0 0xFFFFFFFF ∧
    exec (.srem32Imm 1 0xFFFFFFFF) (one 0 0x80000000 0) =
      .next (afterPanic (one 0 0x80000000 0) (.negativeOverflow 0)) :=
  ⟨⟨by decide, by decide, rfl, rfl⟩, ⟨by decide, rfl⟩, next_of_after (by decide)⟩

/-- Operands for the eight pairs: 100 by 7 unsigned, -7 by 2 signed in both widths, and the neighbours of the overflow,
`-2^31 + 1` and `-2^63 + 1` by -1. -/
theorem witness_QuotientAndRemainderBelongTogether :
    (Ready (one 0 100 7) 1 2 100 7 ∧ ((low32 7 : Nat) : Int) ≠ 0 ∧ (((7 : Word).toNat : Nat) : Int) ≠ 0 ∧
      (((7 : Imm).toNat : Nat) : Int) ≠ 0) ∧
    (Ready (one 0 0xFFFFFFFFFFFFFFF9 2) 1 2 0xFFFFFFFFFFFFFFF9 2 ∧ sgn 64 (2 : Word).toNat ≠ 0 ∧
      sgn 32 (low32 2) ≠ 0 ∧ sgn 64 (2 : Word).toNat ≠ -1 ∧ sgn 32 (low32 2) ≠ -1) ∧
    (Ready (one 0 0x80000001 0xFFFFFFFF) 1 2 0x80000001 0xFFFFFFFF ∧ sgn 32 (low32 0xFFFFFFFF) = -1 ∧
      sgn 32 (low32 0x80000001) ≠ -2 ^ 31 ∧ sgn 32 (0xFFFFFFFF : Imm).toNat = -1) ∧
    Ready (one 0 0x8000000000000001 0xFFFFFFFFFFFFFFFF) 1 2 0x8000000000000001 0xFFFFFFFFFFFFFFFF ∧
    sgn 64 (0x8000000000000001 : Word).toNat ≠ -2 ^ 63 :=
  ⟨⟨⟨by decide, by decide, by decide⟩, by decide, by decide, by decide⟩,
   ⟨⟨by decide, by decide, by decide⟩, by decide, by decide, by decide, by decide⟩,
   ⟨⟨by decide, by decide, by decide⟩, by decide, by decide, by decide⟩,
   ⟨by decide, by decide, by decide⟩, by decide⟩

/-! ### Memory: `0x100 … 0x10F` read-only, `0x200 … 0x217` writable in two regions -/

/-- The memory map of the bench. -/
abbrev benchMap : List Region := (one 0 0 0).params.memMap

theorem witness_EffectiveAddressWraps : 2 ^ 64 < (0xFFFFFFFFFFFFFFFF : Word).toNat + 2 := by decide

/-- The last eight bytes of the read-only region, across two regions, and one byte too far. -/
theorem witness_MemReadIsLittleEndian :
    AllMapped benchMap (0x108 : Word).toNat 8 ∧ AllMapped benchMap (0x20C : Word).toNat 8 ∧
    ¬ AllMapped benchMap (0x109 : Word).toNat 8 ∧ ¬ AllMapped benchMap (0xFF : Word).toNat 1 := by
  unfold AllMapped Mapped; decide

/-- Out of bounds over two read-only bytes; a violation at the last read-only byte; the last eight writable bytes. -/
theorem witness_MemWriteStoresBytesOrPanics :
    Memory.wf (one 0 0 0).mem = true ∧ ¬ AllMapped benchMap (0x10E : Word).toNat 4 ∧
    (AllMapped benchMap (0x10F : Word).toNat 1 ∧ ∃ k < 1, InReadOnly benchMap ((0x10F : Word).toNat + k)) ∧
    AllMapped benchMap (0x210 : Word).toNat 8 ∧ ∀ k < 8, ¬ InReadOnly benchMap ((0x210 : Word).toNat + k) := by
  unfold AllMapped Mapped InReadOnly; decide

/-- The effective address wraps to the first mapped one: `0xFFFFFFFFFFFFFFFF + 0x101`. -/
theorem witness_LoadsZeroExtend :
    (canAdvance (one 0 0 0xFFFFFFFFFFFFFFFF) = true ∧
      (one 0 0 0xFFFFFFFFFFFFFFFF).reg 2 = .holds 0xFFFFFFFFFFFFFFFF ∧
      (0x100 : Word) = wordOf (((0xFFFFFFFFFFFFFFFF : Word).toNat : Int) + sgn 16 (0x101 : Off).toNat)) ∧
    AllMapped benchMap (0x100 : Word).toNat Width.double.bytes ∧
    (0xFF : Word) = wordOf (((0x100 : Word).toNat : Int) + sgn 16 (0xFFFF : Off).toNat) ∧
    ¬ AllMapped benchMap (0xFF : Word).toNat Width.byte.bytes := by
  unfold AllMapped Mapped; decide

/-- The three clauses at the edges of the regions, the function going on. -/
theorem witness_StoresOfAnImmediate :
    (one 0 0x210 0).reg 1 = .holds 0x210 ∧
    ((0x20C : Word) = wordOf (((0x210 : Word).toNat : Int) + sgn 16 (0xFFFC : Off).toNat) ∧
      AllMapped benchMap (0x20C : Word).toNat Width.double.bytes ∧
      (∀ k < Width.double.bytes, ¬ InReadOnly benchMap ((0x20C : Word).toNat + k)) ∧
      canAdvance (one 0 0x210 0) = true ∧ Memory.wf (one 0 0x210 0).mem = true) ∧
    ((0x218 : Word) = wordOf (((0x210 : Word).toNat : Int) + sgn 16 (8 : Off).toNat) ∧
      ¬ AllMapped benchMap (0x218 : Word).toNat Width.byte.bytes) ∧
    (0x10F : Word) = wordOf (((0x210 : Word).toNat : Int) + sgn 16 (0xFEFF : Off).toNat) ∧
      AllMapped benchMap (0x10F : Word).toNat Width.byte.bytes ∧
      ∃ k < Width.byte.bytes, InReadOnly benchMap ((0x10F : Word).toNat + k) := by
  unfold AllMapped Mapped InReadOnly; decide

/-- The same addresses, with base and stored value in one register. -/
theorem witness_StoresOfARegister :
    (one 0 0x210 0x99).reg 1 = .holds 0x210 ∧ (one 0 0x210 0x99).reg 2 = .holds 0x99 ∧
    ((0x20C : Word) = wordOf (((0x210 : Word).toNat : Int) + sgn 16 (0xFFFC : Off).toNat) ∧
      AllMapped benchMap (0x20C : Word).toNat Width.double.bytes ∧
      (∀ k < Width.double.bytes, ¬ InReadOnly benchMap ((0x20C : Word).toNat + k)) ∧
      canAdvance (one 0 0x210 0x99) = true ∧ Memory.wf (one 0 0x210 0x99).mem = true) ∧
    ¬ AllMapped benchMap (0x218 : Word).toNat Width.byte.bytes ∧
    ∃ k < Width.byte.bytes, InReadOnly benchMap ((0x10F : Word).toNat + k) := by
  unfold AllMapped Mapped InReadOnly; decide

theorem witness_MixedWidthsSeeTheBytes : 0x1122334455667788 < 2 ^ 64 ∧ Memory.wf (one 0 0 0).mem = true ∧
    ∃ m, memWrite (one 0 0 0) 0x210 8 0x1122334455667788 = .ok m ∧
      ∃ m', memWrite { one 0 0 0 with mem := m } (0x210 + BitVec.ofNat 64 7) 1 (0xAA : Byte).toNat = .ok m' :=
  ⟨by decide, by decide, _, rfl, _, rfl⟩

theorem witness_StoreThenLoadReturnsTheLowBytes :
    Memory.wf (middle 0 0x210 0x99).mem = true ∧ (middle 0 0x210 0x99).status = .running ∧
    (middle 0 0x210 0x99).reg 2 = .holds 0x99 ∧
    ∃ t, exec (storeRegOf .half 1 0xFFFF 2) (middle 0 0x210 0x99) = .next t ∧ t.status = .running ∧
      canAdvance t = true :=
  ⟨by decide, rfl, by decide, _, next_of_after rfl, by decide, by decide⟩

/-! ### Control flow: slot 2 or slot 7 of the function `[0, 8)` -/

/-- The first slot, the last slot, and one slot beyond each. -/
theorem witness_UnconditionalJump :
    fnAt (middle 0 0 0).params (middle 0 0 0).pc = some ⟨0, 8⟩ ∧
    target (middle 0 0 0) 0xFFFD = 0 ∧ target (middle 0 0 0) 4 = 7 ∧
    target (middle 0 0 0) 0xFFFC = -1 ∧ target (middle 0 0 0) 5 = 8 := by decide

/-- Taken and not taken, in the middle and in the last slot, and with a target one slot outside. -/
theorem witness_ConditionalJumpsOnImmediates :
    (fnAt (middle 0 0 0).params (middle 0 0 0).pc = some ⟨0, 8⟩ ∧ (middle 0 0 0).reg 1 = .holds 0 ∧
      Cond.holds .eq (0 : Word).toNat (sextNat 0) ∧ ¬ Cond.holds .ne (0 : Word).toNat (sextNat 0) ∧
      target (middle 0 0 0) 4 = 7 ∧ target (middle 0 0 0) 5 = 8 ∧ (middle 0 0 0).pc + 1 < 8) ∧
    fnAt (atEnd 0 0 0).params (atEnd 0 0 0).pc = some ⟨0, 8⟩ ∧ (atEnd 0 0 0).reg 1 = .holds 0 ∧
    target (atEnd 0 0 0) 0xFFFF = 7 ∧ 8 ≤ (atEnd 0 0 0).pc + 1 := by
  unfold Cond.holds; decide

/-- The same with the second operand in a register, signed and unsigned apart. -/
theorem witness_ConditionalJumpsOnRegisters :
    (fnAt (middle 0 0 0xFFFFFFFFFFFFFFFF).params 2 = some ⟨0, 8⟩ ∧
      (middle 0 0 0xFFFFFFFFFFFFFFFF).reg 1 = .holds 0 ∧
      (middle 0 0 0xFFFFFFFFFFFFFFFF).reg 2 = .holds 0xFFFFFFFFFFFFFFFF ∧
      Cond.holds .sgt (0 : Word).toNat (0xFFFFFFFFFFFFFFFF : Word).toNat ∧
      ¬ Cond.holds .gt (0 : Word).toNat (0xFFFFFFFFFFFFFFFF : Word).toNat ∧
      target (middle 0 0 0) 4 = 7 ∧ target (middle 0 0 0) 5 = 8) ∧
    (atEnd 0 0 0).reg 2 = .holds 0 ∧ target (atEnd 0 0 0) 0xFFFF = 7 ∧ 8 ≤ (atEnd 0 0 0).pc + 1 := by
  unfold Cond.holds; decide

/-- Full depth; targets -1 and 8 outside a text of eight slots; slot 0 and slot 7 inside; the last slot of the caller. -/
theorem witness_CallPushesAFrame :
    (full (middle 0 0 0)).params.maxCallDepth ≤ (full (middle 0 0 0)).cs.length ∧
    ((middle 0 0 0).cs.length < (middle 0 0 0).params.maxCallDepth ∧ (middle 0 0 0).params.text.length = 8 ∧
      target (middle 0 0 0) 0xFFFC = -1 ∧ target (middle 0 0 0) 5 = 8 ∧
      target (middle 0 0 0) 0xFFFD = 0 ∧ target (middle 0 0 0) 4 = 7) ∧
    (fnAt (middle 0 0 0).params (middle 0 0 0).pc = some ⟨0, 8⟩ ∧ (middle 0 0 0).pc + 1 < 8 ∧
      (middle 0 0 0).params.hooks = .identity) ∧
    fnAt (atEnd 0 0 0).params (atEnd 0 0 0).pc = some ⟨0, 8⟩ ∧ 8 ≤ (atEnd 0 0 0).pc + 1 ∧
    target (atEnd 0 0 0) 0xFFFF = 7 := by decide

/-- An address below `TEXT_BASE`, one between slots, one at the end of the text; the first and the last slot. -/
theorem witness_CallxTakesAByteAddress :
    (middle 0 0 0).params.textBase.toNat = 0x100000000 ∧ (middle 0 0 0).params.text.length = 8 ∧
    ((middle 0 0xFFFFFFF8 0).reg 1 = .holds 0xFFFFFFF8 ∧ (0xFFFFFFF8 : Word).toNat < 0x100000000) ∧
    ((middle 0 0x100000004 0).reg 1 = .holds 0x100000004 ∧ ((0x100000004 : Word).toNat - 0x100000000) % 8 ≠ 0) ∧
    ((middle 0 0x100000040 0).reg 1 = .holds 0x100000040 ∧ 8 ≤ ((0x100000040 : Word).toNat - 0x100000000) / 8) ∧
    ((middle 0 0x100000038 0).reg 1 = .holds 0x100000038 ∧ ¬ ((0x100000038 : Word).toNat < 0x100000000 ∨
      ((0x100000038 : Word).toNat - 0x100000000) % 8 ≠ 0 ∨ 8 ≤ ((0x100000038 : Word).toNat - 0x100000000) / 8)) ∧
    (middle 0 0 0).cs.length < (middle 0 0 0).params.maxCallDepth ∧
    fnAt (middle 0 0 0).params (middle 0 0 0).pc = some ⟨0, 8⟩ ∧ (middle 0 0 0).pc + 1 < 8 ∧
    fnAt (atEnd 0 0 0).params (atEnd 0 0 0).pc = some ⟨0, 8⟩ ∧ 8 ≤ (atEnd 0 0 0).pc + 1 ∧
    (full (middle 0 0 0)).params.maxCallDepth ≤ (full (middle 0 0 0)).cs.length :=
  ⟨rfl, rfl, by decide, by decide, by decide, by decide, by decide, by decide, by decide, by decide, by decide, by decide⟩

theorem witness_ExitReturnsOrHalts :
    (middle 0x95 0 0).cs = [] ∧ (nested (middle 0x95 0 0)).cs = [] ++ [⟨5, []⟩] ∧
    (nested (middle 0x95 0 0)).params.hooks = .identity := ⟨rfl, rfl, rfl⟩

theorem witness_ExitReturnsBehindTheCall :
    (middle 0 0 0).status = .running ∧
    ∃ t, exec (.call 4) (middle 0 0 0) = .next t ∧ t.status = .running ∧
      ∃ u : State, u.cs = t.cs ∧ u.pc ≠ t.pc :=
  ⟨rfl, _, next_of_after rfl, by decide, { middle 0 0 0 with cs := [⟨3, []⟩] }, by decide, by decide⟩

/-! ### Frames -/

theorem witness_RegisterInstructionsFrame :
    destination (.add64Imm 11 5) = some 11 ∧ exec (.add64Imm 11 5) (one 0 0 0) = .next (afterWrite (one 0 0 0) 11 5) :=
  ⟨rfl, next_of_after (by decide)⟩

theorem witness_StoresFrame :
    (∃ t, exec (storeImmOf .half 1 0xFFFF 0x99) (one 0 0x210 0) = .next t ∧ t.status = .running) ∧
    (∃ t, exec (storeRegOf .double 1 0 1) (one 0 0x210 0) = .next t ∧ t.status = .running) ∧
    (one 0 0x210 0).reg 1 = .holds 0x210 :=
  ⟨⟨_, next_of_after rfl, by decide⟩, ⟨_, next_of_after rfl, by decide⟩, by decide⟩

theorem witness_ControlFlowFrame :
    (isSequential (.call 4) = false ∧ (∃ t, exec (.call 4) (middle 0 0 0) = .next t) ∧
      (middle 0 0 0).params.hooks = .identity) ∧
    (∃ t, exec (.ja 4) (middle 0 0 0) = .next t) ∧ (∃ t, exec (jumpImmOf .eq 1 0 4) (middle 0 0 0) = .next t) ∧
    ∃ t, exec (jumpRegOf .ne 1 2 4) (middle 0 0 0) = .next t :=
  ⟨⟨rfl, ⟨_, next_of_after rfl⟩, rfl⟩, ⟨_, next_of_after rfl⟩, ⟨_, next_of_after rfl⟩, ⟨_, next_of_after rfl⟩⟩

/-! ### Well-formed programs -/

/-- `goodParams` (`ja -1` and `exit`, each a function) is well-formed, and breaking each clause of R297 in turn is not:
(a) an invalid word; (b) a jump into the next function, a jump to slot -1, a call to slot `N`; (c) a last word that is
neither `ja` nor `exit`. In all of them the functions partition the slots. -/
theorem witness_ProgramWellFormedIsTheRule :
    FunctionsPartition goodParams ∧ programWellFormed goodParams = true ∧
    [[0xFFFF0005, 0x195], [0x00000005, 0x95], [0xFFFE0005, 0x95], [0x10085, 0x95],
      [0xFFFF0005, 0x500000107]].all (fun text =>
        !programWellFormed { goodParams with text := text }) = true ∧
    programWellFormed { goodParams with text := [0x10085, 0x95], functions := [⟨0, 2⟩] } = false ∧
    programWellFormed { goodParams with text := [0x85, 0x95], functions := [⟨0, 2⟩] } = true := by
  unfold FunctionsPartition
  decide

end Sys2Proof.Tests
end

section
/-! PROOFS. Every instruction is one of the fifteen shared operations. What the later proofs need of an instruction is
said here once, so that they split over the operations and not over the 100 constructors. -/
namespace Sys2Proof.Machine

/-! ## The operation of an instruction -/

/-- What the tables of Safety.lean say of an instruction: the registers it reads, the register it writes, whether it is
sequential and whether it is plain arithmetic. -/
structure Profile (i : Instr) (rs : List Reg) (dst : Option Reg) (sequential plain : Bool) : Prop where
  reads_eq : reads i = rs
  destination_eq : destination i = dst
  sequential_eq : isSequential i = sequential
  plain_eq : isPlainArithmetic i = plain

/-- The instruction is one of the shared operations of Machine/Ops.lean: which one, with which operands, and which
panics it may raise of its own. -/
inductive Operation : Instr → Prop where
  | update {i : Instr} (f : Params → Word → Word) (dst : Reg)
      (run : ∀ s, exec i s = updateReg (f s.params) dst s) (profile : Profile i [dst] (some dst) true true)
      (own : ∀ p, ownPanic i p = false) : Operation i
  | update2 {i : Instr} (f : Params → Word → Word → Word) (dst src : Reg)
      (run : ∀ s, exec i s = updateReg2 (f s.params) dst src s) (profile : Profile i [dst, src] (some dst) true true)
      (own : ∀ p, ownPanic i p = false) : Operation i
  | const {i : Instr} (v : Word) (dst : Reg)
      (run : ∀ s, exec i s = loadReg v dst s) (profile : Profile i [] (some dst) true true)
      (own : ∀ p, ownPanic i p = false) : Operation i
  | copy {i : Instr} (f : Word → Word) (dst src : Reg)
      (run : ∀ s, exec i s = copyReg f dst src s) (profile : Profile i [src] (some dst) true true)
      (own : ∀ p, ownPanic i p = false) : Operation i
  | divide {i : Instr} (f : Word → Except DivisionPanic Word) (dst : Reg)
      (run : ∀ s, exec i s = divideReg f dst s) (profile : Profile i [dst] (some dst) true false)
      (own : ∀ a q pc, f a = .error q → ownPanic i (q.panicAt pc) = true) : Operation i
  | divide2 {i : Instr} (f : Word → Word → Except DivisionPanic Word) (dst src : Reg)
      (run : ∀ s, exec i s = divideReg2 f dst src s) (profile : Profile i [dst, src] (some dst) true false)
      (own : ∀ a b q pc, f a b = .error q → ownPanic i (q.panicAt pc) = true) : Operation i
  | load {i : Instr} (w : Width) (dst src : Reg) (off : Off)
      (run : ∀ s, exec i s = load w dst src off s) (profile : Profile i [src] (some dst) true false)
      (own : ∀ pc ea n, ownPanic i (.memoryOutOfBounds pc ea n .load) = true) : Operation i
  | storeImm {i : Instr} (w : Width) (dst : Reg) (off : Off) (v : Params → Word)
      (run : ∀ s, exec i s = storeImm w dst off (v s.params) s) (profile : Profile i [dst] none true false)
      (own : ∀ pc ea n, ownPanic i (.memoryOutOfBounds pc ea n .store) = true ∧
        ownPanic i (.accessViolation pc ea n) = true) : Operation i
  | storeReg {i : Instr} (w : Width) (dst : Reg) (off : Off) (src : Reg)
      (run : ∀ s, exec i s = storeReg w dst off src s) (profile : Profile i [dst, src] none true false)
      (own : ∀ pc ea n, ownPanic i (.memoryOutOfBounds pc ea n .store) = true ∧
        ownPanic i (.accessViolation pc ea n) = true) : Operation i
  | jump (off : Off) : Operation (.ja off)
  | jumpIfImm {i : Instr} (c : Word → Word → Bool) (dst : Reg) (imm : Imm) (off : Off)
      (run : ∀ s, exec i s = jumpIfImm c dst imm off s) (profile : Profile i [dst] none false false)
      (own : ∀ pc tgt, ownPanic i (.targetOutOfBounds pc tgt) = true) : Operation i
  | jumpIfReg {i : Instr} (c : Word → Word → Bool) (dst src : Reg) (off : Off)
      (run : ∀ s, exec i s = jumpIfReg c dst src off s) (profile : Profile i [dst, src] none false false)
      (own : ∀ pc tgt, ownPanic i (.targetOutOfBounds pc tgt) = true) : Operation i
  | call (off : Off) : Operation (.call off)
  | callx (src : Reg) : Operation (.callx src)
  | exit : Operation .exit

/-- An update whose computation reads no switch. -/
theorem Operation.updateBy {i : Instr} (f : Word → Word) (dst : Reg) (run : ∀ s, exec i s = updateReg f dst s)
    (profile : Profile i [dst] (some dst) true true) (own : ∀ p, ownPanic i p = false) : Operation i :=
  .update (fun _ => f) dst run profile own

/-- An update from two registers whose computation reads no switch. -/
theorem Operation.update2By {i : Instr} (f : Word → Word → Word) (dst src : Reg)
    (run : ∀ s, exec i s = updateReg2 f dst src s) (profile : Profile i [dst, src] (some dst) true true)
    (own : ∀ p, ownPanic i p = false) : Operation i :=
  .update2 (fun _ => f) dst src run profile own

/-! ## The own panics of the divisions (R161, R162) -/

theorem except_map_error {α β : Type} {f : α → β} {r : Except DivisionPanic α} {q : DivisionPanic} :
    r.map f = .error q ↔ r = .error q := by
  cases r <;> simp [Except.map]

theorem signedQuotient_error_of_nonneg {width : Nat} {a : Int} {d : Nat} {q : DivisionPanic}
    (h : signedQuotient width a d = .error q) : q = .byZero := by
  have hd : (d : Int) ≠ -1 := by omega
  unfold signedQuotient at h
  split at h <;> simp_all

theorem signedRemainder_error_of_nonneg {width : Nat} {a : Int} {d : Nat} {q : DivisionPanic}
    (h : signedRemainder width a d = .error q) : q = .byZero := by
  have hd : (d : Int) ≠ -1 := by omega
  unfold signedRemainder at h
  split at h <;> simp_all

/-- An instruction that may divide by zero raises what a computation raises that fails in no other way. -/
theorem ownPanic_of_byZero {i : Instr} {q : DivisionPanic} (hi : ∀ pc, ownPanic i (.divisionByZero pc) = true)
    (hq : q = .byZero) (pc : Nat) : ownPanic i (q.panicAt pc) = true := by
  subst hq; exact hi pc

/-- An instruction that may raise both panics of a division raises either. -/
theorem ownPanic_panicAt {i : Instr} (h0 : ∀ pc, ownPanic i (.divisionByZero pc) = true)
    (h1 : ∀ pc, ownPanic i (.negativeOverflow pc) = true) (q : DivisionPanic) (pc : Nat) :
    ownPanic i (q.panicAt pc) = true := by
  cases q
  · exact h0 pc
  · exact h1 pc

/-- Every instruction is one of the shared operations. -/
theorem operation (i : Instr) : Operation i := by
  cases i with
  | ldxw dst src off | ldxh dst src off | ldxb dst src off | ldxdw dst src off =>
    exact .load _ dst src off (fun _ => rfl) ⟨rfl, rfl, rfl, rfl⟩ (fun _ _ _ => rfl)
  | stw dst off imm | sth dst off imm | stb dst off imm =>
    exact .storeImm _ dst off (fun _ => zext64 imm) (fun _ => rfl) ⟨rfl, rfl, rfl, rfl⟩ (fun _ _ _ => ⟨rfl, rfl⟩)
  | stdw dst off imm =>
    exact .storeImm _ dst off (fun p => extend64 p.stdwImmExt imm) (fun _ => rfl) ⟨rfl, rfl, rfl, rfl⟩
      (fun _ _ _ => ⟨rfl, rfl⟩)
  | stxw dst off src | stxh dst off src | stxb dst off src | stxdw dst off src =>
    exact .storeReg _ dst off src (fun _ => rfl) ⟨rfl, rfl, rfl, rfl⟩ (fun _ _ _ => ⟨rfl, rfl⟩)
  | movImm dst imm | mov64Imm dst imm => exact .const _ dst (fun _ => rfl) ⟨rfl, rfl, rfl, rfl⟩ (fun _ => rfl)
  | movReg dst src | mov64Reg dst src => exact .copy _ dst src (fun _ => rfl) ⟨rfl, rfl, rfl, rfl⟩ (fun _ => rfl)
  | addImm dst imm | subImm dst imm | orImm dst imm | andImm dst imm | lshImm dst imm | rshImm dst imm
  | xorImm dst imm | ashImm dst imm | be dst imm | uhmul64Imm dst imm | lmul32Imm dst imm | lmul64Imm dst imm
  | add64Imm dst imm | sub64Imm dst imm | lsh64Imm dst imm | rsh64Imm dst imm | ash64Imm dst imm =>
    exact .updateBy _ dst (fun _ => rfl) ⟨rfl, rfl, rfl, rfl⟩ (fun _ => rfl)
  | or64Imm dst imm =>
    exact .update (fun p a => a ||| extend64 p.imm64LogicExt imm) dst (fun _ => rfl)
      ⟨rfl, rfl, rfl, rfl⟩ (fun _ => rfl)
  | and64Imm dst imm =>
    exact .update (fun p a => a &&& extend64 p.imm64LogicExt imm) dst (fun _ => rfl)
      ⟨rfl, rfl, rfl, rfl⟩ (fun _ => rfl)
  | xor64Imm dst imm =>
    exact .update (fun p a => a ^^^ extend64 p.imm64LogicExt imm) dst (fun _ => rfl)
      ⟨rfl, rfl, rfl, rfl⟩ (fun _ => rfl)
  | hor64 dst imm =>
    exact .update (fun p a => a ||| (extend64 p.imm64LogicExt imm <<< 32)) dst (fun _ => rfl)
      ⟨rfl, rfl, rfl, rfl⟩ (fun _ => rfl)
  | shmul64Imm dst imm =>
    exact .update (fun p a => highProductInt (shmulFactor p.shmul64DstExt a) imm.toInt) dst (fun _ => rfl)
      ⟨rfl, rfl, rfl, rfl⟩ (fun _ => rfl)
  | addReg dst src | subReg dst src | orReg dst src | andReg dst src | lshReg dst src | rshReg dst src
  | xorReg dst src | ashReg dst src | uhmul64Reg dst src | lmul32Reg dst src | lmul64Reg dst src
  | add64Reg dst src | sub64Reg dst src | or64Reg dst src | and64Reg dst src | lsh64Reg dst src | rsh64Reg dst src
  | xor64Reg dst src | ash64Reg dst src =>
    exact .update2By _ dst src (fun _ => rfl) ⟨rfl, rfl, rfl, rfl⟩ (fun _ => rfl)
  | shmul64Reg dst src =>
    exact .update2 (fun p a b => highProductInt (shmulFactor p.shmul64DstExt a) b.toInt) dst src (fun _ => rfl)
      ⟨rfl, rfl, rfl, rfl⟩ (fun _ => rfl)
  | udiv32Imm dst imm | udiv64Imm dst imm =>
    exact .divide _ dst (fun _ => rfl) ⟨rfl, rfl, rfl, rfl⟩ fun _ _ pc h =>
      ownPanic_of_byZero (fun _ => rfl) (unsignedQuotient_error.mp (except_map_error.mp h)).2 pc
  | urem32Imm dst imm | urem64Imm dst imm =>
    exact .divide _ dst (fun _ => rfl) ⟨rfl, rfl, rfl, rfl⟩ fun _ _ pc h =>
      ownPanic_of_byZero (fun _ => rfl) (unsignedRemainder_error.mp (except_map_error.mp h)).2 pc
  | sdiv64Imm dst imm =>
    exact .divide _ dst (fun _ => rfl) ⟨rfl, rfl, rfl, rfl⟩ fun _ _ pc h =>
      ownPanic_of_byZero (fun _ => rfl) (signedQuotient_error_of_nonneg (except_map_error.mp h)) pc
  | srem64Imm dst imm =>
    exact .divide _ dst (fun _ => rfl) ⟨rfl, rfl, rfl, rfl⟩ fun _ _ pc h =>
      ownPanic_of_byZero (fun _ => rfl) (signedRemainder_error_of_nonneg (except_map_error.mp h)) pc
  | sdiv32Imm dst imm | srem32Imm dst imm =>
    exact .divide _ dst (fun _ => rfl) ⟨rfl, rfl, rfl, rfl⟩ fun _ q pc _ =>
      ownPanic_panicAt (fun _ => rfl) (fun _ => rfl) q pc
  | udiv32Reg dst src | udiv64Reg dst src =>
    exact .divide2 _ dst src (fun _ => rfl) ⟨rfl, rfl, rfl, rfl⟩ fun _ _ _ pc h =>
      ownPanic_of_byZero (fun _ => rfl) (unsignedQuotient_error.mp (except_map_error.mp h)).2 pc
  | urem32Reg dst src | urem64Reg dst src =>
    exact .divide2 _ dst src (fun _ => rfl) ⟨rfl, rfl, rfl, rfl⟩ fun _ _ _ pc h =>
      ownPanic_of_byZero (fun _ => rfl) (unsignedRemainder_error.mp (except_map_error.mp h)).2 pc
  | sdiv32Reg dst src | sdiv64Reg dst src | srem32Reg dst src | srem64Reg dst src =>
    exact .divide2 _ dst src (fun _ => rfl) ⟨rfl, rfl, rfl, rfl⟩ fun _ _ q pc _ =>
      ownPanic_panicAt (fun _ => rfl) (fun _ => rfl) q pc
  | jeqImm dst imm off | jgtImm dst imm off | jgeImm dst imm off | jsetImm dst imm off | jneImm dst imm off
  | jsgtImm dst imm off | jsgeImm dst imm off | jltImm dst imm off | jleImm dst imm off | jsltImm dst imm off
  | jsleImm dst imm off =>
    exact .jumpIfImm _ dst imm off (fun _ => rfl) ⟨rfl, rfl, rfl, rfl⟩ (fun _ _ => rfl)
  | jeqReg dst src off | jgtReg dst src off | jgeReg dst src off | jsetReg dst src off | jneReg dst src off
  | jsgtReg dst src off | jsgeReg dst src off | jltReg dst src off | jleReg dst src off | jsltReg dst src off
  | jsleReg dst src off =>
    exact .jumpIfReg _ dst src off (fun _ => rfl) ⟨rfl, rfl, rfl, rfl⟩ (fun _ _ => rfl)
  | ja off => exact .jump off
  | call off => exact .call off
  | callx src => exact .callx src
  | exit => exact .exit

end Sys2Proof.Machine
end

section
/-! PROOFS. What a step can do: one inversion lemma for `exec` and one for `step`, and the invariants and frames that
follow from them. -/
namespace Sys2Proof.Machine
open Sys2Proof.Claim

/-! ## The effects of an instruction -/

/-- The next states an instruction can answer: a panic, one of the two kinds of write with the sequential advance, a
jump, a call, the halt or a return. -/
inductive Effect (i : Instr) (s : State) : State → Prop where
  | panic (p : Panic) : Effect i s (panicked s p)
  | write (dst : Reg) (v : Word) (hdst : destination i = some dst) (hadv : canAdvance s = true) :
      Effect i s (wrote s dst v)
  | store (a v n : Nat) (hdst : destination i = none) (hadv : canAdvance s = true)
      (hacc : accessible s.params.memMap a n = true) :
      Effect i s { s with mem := writeBytes s.mem a v n, pc := s.pc + 1 }
  | goto (n : Nat) (hseq : isSequential i = false) : Effect i s { s with pc := n }
  | call (n : Nat) (hseq : isSequential i = false) (hdepth : s.cs.length < s.params.maxCallDepth) :
      Effect i s (called s n)
  | halt (hseq : isSequential i = false) : Effect i s { s with status := .halted }
  | ret (fs : List Frame) (f : Frame) (hseq : isSequential i = false) (hcs : s.cs = fs ++ [f]) :
      Effect i s { s with cs := fs, regs := onReturn s.params.hooks s.regs f.saved, pc := f.ret }

/-- An advance commits in a state that can advance, and panics in any other. -/
theorem advance_canAdvance {s u t : State} (h : advance s u = .next t) :
    (canAdvance s = true ∧ t = { u with pc := s.pc + 1 }) ∨ t = panicked s (advancePanic s) := by
  obtain ⟨f, hf, ⟨hlt, ht⟩ | ⟨-, ht⟩⟩ := advance_next h
  · exact .inl ⟨canAdvance_iff.mpr ⟨f, hf, hlt⟩, ht⟩
  · exact .inr ht

section
variable {i : Instr} {s t : State}

theorem effect_of_write {dst : Reg} {v : Word} (hdst : destination i = some dst)
    (h : advance s (s.setReg dst v) = .next t) : Effect i s t := by
  obtain ⟨hadv, rfl⟩ | rfl := advance_canAdvance h
  · exact .write dst v hdst hadv
  · exact .panic _

theorem effect_of_finishDivision {dst : Reg} {r : Except DivisionPanic Word} (hdst : destination i = some dst)
    (h : finishDivision r dst s = .next t) : Effect i s t := by
  obtain ⟨v, -, h⟩ | ⟨p, -, rfl⟩ := finishDivision_next h
  · exact effect_of_write hdst h
  · exact .panic _

theorem effect_of_finishStore {w : Width} {base : Word} {off : Off} {v : Nat} (hdst : destination i = none)
    (h : finishStore w base off v s = .next t) : Effect i s t := by
  obtain ⟨hacc, -, h⟩ | rfl | rfl := finishStore_next h
  · obtain ⟨hadv, rfl⟩ | rfl := advance_canAdvance h
    · exact .store _ v _ hdst hadv hacc
    · exact .panic _
  · exact .panic _
  · exact .panic _

theorem effect_of_jumpIf {c : Bool} {off : Off} (hseq : isSequential i = false) (h : jumpIf c off s = .next t) :
    Effect i s t := by
  obtain ⟨f, -, ⟨-, rfl⟩ | ⟨-, -, ⟨-, rfl⟩ | ⟨-, -, rfl⟩ | ⟨-, -, rfl⟩⟩⟩ := jumpIf_next h
  · exact .panic _
  · exact .goto _ hseq
  · exact .goto _ hseq
  · exact .panic _

theorem effect_of_callTo {target : Option Nat} {reported : Target} (hseq : isSequential i = false)
    (h : callTo target reported s = .next t) : Effect i s t := by
  obtain ⟨-, rfl⟩ | ⟨hdepth, ⟨-, rfl⟩ | ⟨n, f, -, -, ⟨-, rfl⟩ | ⟨-, rfl⟩⟩⟩ := callTo_next h
  · exact .panic _
  · exact .panic _
  · exact .panic _
  · exact .call n hseq hdepth

/-- Everything an instruction can answer as a next state. -/
theorem exec_effect (h : exec i s = .next t) : Effect i s t := by
  cases operation i with
  | update f dst run profile =>
    obtain ⟨a, -, h⟩ := updateReg_next (run s ▸ h)
    exact effect_of_write profile.destination_eq h
  | update2 f dst src run profile =>
    obtain ⟨a, b, -, -, h⟩ := updateReg2_next (run s ▸ h)
    exact effect_of_write profile.destination_eq h
  | const v dst run profile => exact effect_of_write profile.destination_eq (run s ▸ h)
  | copy f dst src run profile =>
    obtain ⟨b, -, h⟩ := copyReg_next (run s ▸ h)
    exact effect_of_write profile.destination_eq h
  | divide f dst run profile =>
    obtain ⟨a, -, h⟩ := divideReg_next (run s ▸ h)
    exact effect_of_finishDivision profile.destination_eq h
  | divide2 f dst src run profile =>
    obtain ⟨a, b, -, -, h⟩ := divideReg2_next (run s ▸ h)
    exact effect_of_finishDivision profile.destination_eq h
  | load w dst src off run profile =>
    obtain ⟨base, -, ⟨-, h⟩ | rfl⟩ := load_next (run s ▸ h)
    · exact effect_of_write profile.destination_eq h
    · exact .panic _
  | storeImm w dst off v run profile =>
    obtain ⟨base, -, h⟩ := storeImm_next (run s ▸ h)
    exact effect_of_finishStore profile.destination_eq h
  | storeReg w dst off src run profile =>
    obtain ⟨base, v, -, -, h⟩ := storeReg_next (run s ▸ h)
    exact effect_of_finishStore profile.destination_eq h
  | jump off =>
    obtain ⟨f, -, ⟨-, -, rfl⟩ | ⟨-, rfl⟩⟩ := jump_next h
    · exact .goto _ rfl
    · exact .panic _
  | jumpIfImm c dst imm off run profile =>
    obtain ⟨a, -, h⟩ := jumpIfImm_next (run s ▸ h)
    exact effect_of_jumpIf profile.sequential_eq h
  | jumpIfReg c dst src off run profile =>
    obtain ⟨a, b, -, -, h⟩ := jumpIfReg_next (run s ▸ h)
    exact effect_of_jumpIf profile.sequential_eq h
  | call off => exact effect_of_callTo rfl h
  | callx src =>
    obtain ⟨a, -, h⟩ := withReg_next h
    exact effect_of_callTo rfl h
  | exit =>
    obtain ⟨-, rfl⟩ | ⟨fs, f, hcs, rfl⟩ := returnOrHalt_next h
    · exact .halt rfl
    · exact .ret fs f rfl hcs

/-- Everything a step can answer as a next state: the panic of an invalid word, or an effect of the instruction in the
slot. -/
theorem step_effect (h : step s = .next t) :
    (∃ p, t = panicked s p) ∨ ∃ i, instrAt s.params s.pc = some i ∧ Effect i s t := by
  obtain ⟨-, w, hw, ⟨e, -, ht⟩ | ⟨i, hi, h⟩⟩ := step_next h
  · exact .inl ⟨_, ht⟩
  · exact .inr ⟨i, instrAt_eq_some.mpr ⟨w, hw, hi⟩, exec_effect h⟩

/-- An instruction with a destination register is sequential. -/
theorem isSequential_of_destination {dst : Reg} (h : destination i = some dst) : isSequential i = true := by
  cases operation i with
  | update _ _ _ profile | update2 _ _ _ _ profile | const _ _ _ profile | copy _ _ _ _ profile
  | divide _ _ _ profile | divide2 _ _ _ _ profile | load _ _ _ _ _ profile | storeImm _ _ _ _ _ profile
  | storeReg _ _ _ _ _ profile => exact profile.sequential_eq
  | jumpIfImm _ _ _ _ _ profile | jumpIfReg _ _ _ _ _ profile => rw [profile.destination_eq] at h; cases h
  | jump | call | callx | exit => cases h

end

/-! ## What every effect keeps -/

section
variable {i : Instr} {s t : State}

theorem Effect.params_eq (h : Effect i s t) : t.params = s.params := by cases h <;> rfl

/-- A store lists nothing but what was listed and the accessed addresses, which are mapped. -/
theorem mapped_of_mem_writeBytes {memMap : List Region} {m : Memory} {a v n : Nat}
    (hm : ∀ c ∈ m, mapped memMap c.1 = true) (hacc : accessible memMap a n = true) :
    ∀ c ∈ writeBytes m a v n, mapped memMap c.1 = true := by
  intro c hc
  rcases mem_writeBytes hc with hc | ⟨hle, hlt⟩
  · exact hm c hc
  · have := ((accessible_iff _ _ _).mp hacc).2 (c.1 - a) (by omega)
    rwa [Nat.add_sub_cancel' hle] at this

theorem Effect.canonical (h : Effect i s t) (hs : s.Canonical) : t.Canonical := by
  obtain ⟨hwf, hmap, hcs⟩ := hs
  cases h with
  | panic | write | goto | halt => exact ⟨hwf, hmap, hcs⟩
  | store a v n _ _ hacc => exact ⟨wf_writeBytes hwf a v n, mapped_of_mem_writeBytes hmap hacc, hcs⟩
  | call n _ hdepth => exact ⟨hwf, hmap, by simpa using hdepth⟩
  | ret fs f _ hfs =>
    refine ⟨hwf, hmap, ?_⟩
    simp only [hfs, List.length_append, List.length_singleton] at hcs
    exact Nat.le_of_succ_le hcs

/-- Under the default hooks a register changes only where it is the instruction's destination, and then it holds a
value. -/
theorem Effect.reg_eq_or (h : Effect i s t) (hh : s.params.hooks = .identity) (r : Reg) :
    t.reg r = s.reg r ∨ (destination i = some r ∧ ∃ v, t.reg r = .holds v) := by
  cases h with
  | panic | store | goto | halt => exact .inl rfl
  | write dst v hdst =>
    by_cases hr : r = dst
    · subst hr
      exact .inr ⟨hdst, v, State.reg_setReg_self s r v⟩
    · exact .inl (State.reg_setReg_ne s v hr)
  | call => exact .inl (State.reg_eq_of_regs (by simp [hh]) r)
  | ret => exact .inl (State.reg_eq_of_regs (by simp [hh]) r)

theorem Effect.allWritten (h : Effect i s t) (hh : s.params.hooks = .identity) (hs : s.AllWritten) :
    t.AllWritten := by
  intro r
  obtain hr | ⟨-, v, hr⟩ := h.reg_eq_or hh r
  · exact hr ▸ hs r
  · simp [hr]

theorem step_params (h : step s = .next t) : t.params = s.params := by
  obtain ⟨p, rfl⟩ | ⟨i, -, he⟩ := step_effect h
  · rfl
  · exact he.params_eq

end

/-! ## The invariants (R30, R32, R35, R36) -/

/-- Settles O13: the parameters are no part of any effect. -/
theorem parametersNeverChange : Obligations.ParametersNeverChange :=
  ⟨fun _ _ _ h => (exec_effect h).params_eq, fun _ _ h => step_params h⟩

/-- Settles O14: of all effects only a store touches the memory and only a call lengthens the call stack, and each
tests its bound first. -/
theorem everyStepKeepsTheCanonicalForm : Obligations.EveryStepKeepsTheCanonicalForm := by
  intro s t hs h
  obtain ⟨p, rfl⟩ | ⟨i, -, he⟩ := step_effect h
  · exact hs
  · exact he.canonical hs

/-- Settles O17: a written register holds a value, and the identity hooks leave every register as it is. -/
theorem everyStepKeepsRegistersWritten : Obligations.EveryStepKeepsRegistersWritten := by
  intro s t ⟨hs, hh⟩ h
  refine ⟨?_, by rw [step_params h, hh]⟩
  obtain ⟨p, rfl⟩ | ⟨i, -, he⟩ := step_effect h
  · exact hs
  · exact he.allWritten hh hs

/-! ## The frame of the instructions with a destination (R22, R28, R262) -/

/-- Settles O57: of the effects only a panic and a register write are those of an instruction with a destination. -/
theorem registerInstructionsFrame : Obligations.RegisterInstructionsFrame := by
  intro i dst s t hdst h
  have hseq := isSequential_of_destination hdst
  cases exec_effect h with
  | panic p => exact ⟨fun _ _ => rfl, fun _ => rfl, rfl, rfl, rfl, .inr ⟨p, rfl, rfl, rfl⟩⟩
  | write dst' v hdst' =>
    obtain rfl : dst = dst' := by simpa [hdst] using hdst'
    exact ⟨fun r hr => State.reg_setReg_ne s v hr, fun _ => rfl, rfl, rfl, rfl, .inl rfl⟩
  | store _ _ _ hnone => simp [hdst] at hnone
  | goto _ hno | call _ hno | halt hno | ret _ _ hno => cases hseq.symm.trans hno

end Sys2Proof.Machine
end

section
/-! PROOFS. The sequential advance: what an instruction tests of its own, it tests before it (R264 (3)). -/
namespace Sys2Proof.Machine
open Sys2Proof.Claim

/-! ## The ends of loads and stores, case by case -/

section
variable {s : State} {w : Width} {base : Word} {off : Off}

theorem load_accessible {dst src : Reg} (hb : s.reg src = .holds base)
    (h : accessible s.params.memMap (effectiveAddress base off).toNat w.bytes = true) :
    load w dst src off s =
      advance s (s.setReg dst (BitVec.ofNat 64 (readBytes s.mem (effectiveAddress base off).toNat w.bytes))) := by
  simp [load, withReg_holds hb, memRead_ok h]

theorem load_outOfBounds {dst src : Reg} (hb : s.reg src = .holds base)
    (h : accessible s.params.memMap (effectiveAddress base off).toNat w.bytes = false) :
    load w dst src off s =
      .next (panicked s (.memoryOutOfBounds s.pc (effectiveAddress base off) w.bytes .load)) := by
  simp [load, withReg_holds hb, memRead_error h]

theorem storeImm_holds {dst : Reg} (v : Word) (hb : s.reg dst = .holds base) :
    storeImm w dst off v s = finishStore w base off v.toNat s := by simp [storeImm, withReg_holds hb]

theorem storeReg_holds {dst src : Reg} {v : Word} (hb : s.reg dst = .holds base) (hv : s.reg src = .holds v) :
    storeReg w dst off src s = finishStore w base off v.toNat s := by
  simp [storeReg, withReg_holds hb, withReg_holds hv]

theorem finishStore_ok (v : Nat) (h : accessible s.params.memMap (effectiveAddress base off).toNat w.bytes = true)
    (hw : touchesReadOnly s.params.memMap (effectiveAddress base off).toNat w.bytes = false) :
    finishStore w base off v s =
      advance s { s with mem := writeBytes s.mem (effectiveAddress base off).toNat v w.bytes } := by
  simp [finishStore, memWrite_ok v h hw]

theorem finishStore_outOfBounds (v : Nat)
    (h : accessible s.params.memMap (effectiveAddress base off).toNat w.bytes = false) :
    finishStore w base off v s =
      .next (panicked s (.memoryOutOfBounds s.pc (effectiveAddress base off) w.bytes .store)) := by
  simp [finishStore, memWrite_outOfBounds v h]

theorem finishStore_violation (v : Nat)
    (h : accessible s.params.memMap (effectiveAddress base off).toNat w.bytes = true)
    (hw : touchesReadOnly s.params.memMap (effectiveAddress base off).toNat w.bytes = true) :
    finishStore w base off v s = .next (panicked s (.accessViolation s.pc (effectiveAddress base off) w.bytes)) := by
  simp [finishStore, memWrite_violation v h hw]

end

/-! ## Own panic, or writes and the advance -/

/-- Whatever the functions are, `i` does the same before its advance from `s`: it raises one own panic, or it comes to
the advance with one set of writes. -/
inductive Prepared (i : Instr) (s : State) : Prop where
  | raises (p : Panic) (own : ownPanic i p = true)
      (run : ∀ fs, exec i (withFunctions s fs) = .next (panicked (withFunctions s fs) p))
  | advances (write : State → State)
      (run : ∀ fs, exec i (withFunctions s fs) = advance (withFunctions s fs) (write (withFunctions s fs)))

theorem holds_of_ne_unwritten {c : RegCell} (h : c ≠ .unwritten) : ∃ v, c = .holds v := by
  cases c with
  | unwritten => exact absurd rfl h
  | holds v => exact ⟨v, rfl⟩

section
variable {i : Instr} {s : State}

theorem prepared_of_finishDivision {dst : Reg} {r : Except DivisionPanic Word}
    (own : ∀ q pc, r = .error q → ownPanic i (q.panicAt pc) = true)
    (run : ∀ fs, exec i (withFunctions s fs) = finishDivision r dst (withFunctions s fs)) : Prepared i s := by
  cases r with
  | ok v => exact .advances (fun u => u.setReg dst v) run
  | error q => exact .raises (q.panicAt s.pc) (own q s.pc rfl) run

theorem prepared_of_finishStore {w : Width} {base : Word} {off : Off} {v : Params → Nat}
    (own : ∀ pc ea n, ownPanic i (.memoryOutOfBounds pc ea n .store) = true ∧
      ownPanic i (.accessViolation pc ea n) = true)
    (run : ∀ fs, exec i (withFunctions s fs) =
      finishStore w base off (v (withFunctions s fs).params) (withFunctions s fs)) : Prepared i s := by
  cases hacc : accessible s.params.memMap (effectiveAddress base off).toNat w.bytes with
  | false =>
    exact .raises _ (own s.pc _ _).1 fun fs => (run fs).trans (finishStore_outOfBounds (s := withFunctions s fs) _ hacc)
  | true =>
    cases hro : touchesReadOnly s.params.memMap (effectiveAddress base off).toNat w.bytes with
    | true =>
      exact .raises _ (own s.pc _ _).2 fun fs =>
        (run fs).trans (finishStore_violation (s := withFunctions s fs) _ hacc hro)
    | false =>
      exact .advances
        (fun u => { u with mem := writeBytes u.mem (effectiveAddress base off).toNat (v u.params) w.bytes }) fun fs =>
        (run fs).trans (finishStore_ok (s := withFunctions s fs) _ hacc hro)

/-- A sequential instruction whose operands are written raises its own panic or comes to its advance, in `s` as in the
same state under other functions. -/
theorem prepared_of_sequential (hi : isSequential i = true) (hr : ∀ r ∈ reads i, s.reg r ≠ .unwritten) :
    Prepared i s := by
  have value : ∀ r ∈ reads i, ∃ v, s.reg r = .holds v := fun r h => holds_of_ne_unwritten (hr r h)
  cases operation i with
  | update f dst run profile =>
    obtain ⟨a, ha⟩ := value dst (by simp [profile.reads_eq])
    exact .advances (fun u => u.setReg dst (f u.params a)) fun fs =>
      (run _).trans (updateReg_holds (s := withFunctions s fs) _ ha)
  | update2 f dst src run profile =>
    obtain ⟨a, ha⟩ := value dst (by simp [profile.reads_eq])
    obtain ⟨b, hb⟩ := value src (by simp [profile.reads_eq])
    exact .advances (fun u => u.setReg dst (f u.params a b)) fun fs =>
      (run _).trans (updateReg2_holds (s := withFunctions s fs) _ ha hb)
  | const v dst run => exact .advances (fun u => u.setReg dst v) fun fs => run _
  | copy f dst src run profile =>
    obtain ⟨b, hb⟩ := value src (by simp [profile.reads_eq])
    exact .advances (fun u => u.setReg dst (f b)) fun fs => (run _).trans (copyReg_holds (s := withFunctions s fs) _ hb)
  | divide f dst run profile own =>
    obtain ⟨a, ha⟩ := value dst (by simp [profile.reads_eq])
    exact prepared_of_finishDivision (own a) fun fs => (run _).trans (divideReg_holds (s := withFunctions s fs) _ ha)
  | divide2 f dst src run profile own =>
    obtain ⟨a, ha⟩ := value dst (by simp [profile.reads_eq])
    obtain ⟨b, hb⟩ := value src (by simp [profile.reads_eq])
    exact prepared_of_finishDivision (own a b) fun fs =>
      (run _).trans (divideReg2_holds (s := withFunctions s fs) _ ha hb)
  | load w dst src off run profile own =>
    obtain ⟨base, hb⟩ := value src (by simp [profile.reads_eq])
    cases hacc : accessible s.params.memMap (effectiveAddress base off).toNat w.bytes with
    | false =>
      exact .raises _ (own s.pc _ _) fun fs => (run _).trans (load_outOfBounds (s := withFunctions s fs) hb hacc)
    | true =>
      exact .advances
        (fun u => u.setReg dst (BitVec.ofNat 64 (readBytes u.mem (effectiveAddress base off).toNat w.bytes))) fun fs =>
        (run _).trans (load_accessible (s := withFunctions s fs) hb hacc)
  | storeImm w dst off v run profile own =>
    obtain ⟨base, hb⟩ := value dst (by simp [profile.reads_eq])
    exact prepared_of_finishStore (v := fun p => (v p).toNat) own fun fs =>
      (run _).trans (storeImm_holds (s := withFunctions s fs) _ hb)
  | storeReg w dst off src run profile own =>
    obtain ⟨base, hb⟩ := value dst (by simp [profile.reads_eq])
    obtain ⟨v, hv⟩ := value src (by simp [profile.reads_eq])
    exact prepared_of_finishStore (v := fun _ => v.toNat) own fun fs =>
      (run _).trans (storeReg_holds (s := withFunctions s fs) hb hv)
  | jumpIfImm _ _ _ _ _ profile | jumpIfReg _ _ _ _ _ profile => cases hi.symm.trans profile.sequential_eq
  | jump | call | callx | exit => cases hi

/-- Plain arithmetic raises no panic of its own (R263). -/
theorem ownPanic_of_plain (hi : isPlainArithmetic i = true) (p : Panic) : ownPanic i p = false := by
  cases operation i with
  | update _ _ _ _ own | update2 _ _ _ _ _ own | const _ _ _ _ own | copy _ _ _ _ _ own => exact own p
  | divide _ _ _ profile | divide2 _ _ _ _ profile | load _ _ _ _ _ profile | storeImm _ _ _ _ _ profile
  | storeReg _ _ _ _ _ profile | jumpIfImm _ _ _ _ _ profile | jumpIfReg _ _ _ _ _ profile =>
    cases hi.symm.trans profile.plain_eq
  | jump | call | callx | exit => cases hi

/-- A sequential instruction that does not panic advances, in a state that can (R28, R222 (c)). -/
theorem advanced_of_sequential {t : State} (hi : isSequential i = true) (hs : s.status = .running)
    (h : exec i s = .next t) (hp : ∀ p, t.status ≠ .faulted p) :
    t.pc = s.pc + 1 ∧ t.status = .running ∧ canAdvance s = true := by
  cases exec_effect h with
  | panic p => exact absurd rfl (hp p)
  | write _ _ _ hadv | store _ _ _ _ hadv => exact ⟨rfl, hs, hadv⟩
  | goto _ hno | call _ hno | halt hno | ret _ _ hno => cases hi.symm.trans hno

end

/-- Settles O26: before its advance an instruction does the same under any functions (`Prepared`), so in the last slot
of its function it raises the same own panic, or the panic of the advance in place of the advance. -/
theorem sequentialAdvanceIsChecked : Obligations.SequentialAdvanceIsChecked := by
  refine ⟨fun i s t hi hs h hp => advanced_of_sequential hi hs h hp, fun i s f hi hf hlast hr => ?_⟩
  cases prepared_of_sequential hi hr with
  | raises p own run =>
    refine ⟨fun hplain => ?_, ?_⟩
    · cases own.symm.trans (ownPanic_of_plain hplain p)
    · rintro fs u rfl -
      exact .inl ⟨p, own, run fs, run s.params.functions⟩
  | advances write run =>
    have hpanic : exec i s = .next (panicked s (advancePanic s)) :=
      (run s.params.functions).trans (advance_outside _ hf hlast)
    refine ⟨fun _ => hpanic, ?_⟩
    rintro fs u rfl hadv
    exact .inr ⟨⟨_, (run fs).trans (advance_of_canAdvance _ hadv), rfl⟩, hpanic⟩

end Sys2Proof.Machine
end

section
/-! PROOFS. The decoder and the registers: what each row of the opcode table reads from a word, and the register table
of R26. -/
namespace Sys2Proof
open Sys2Proof.Claim

/-! ## What a shape reads from a word -/

/-- What the decoder answers for a shape when it answers an instruction: the registers its fields name, allowed there,
and, when strict, zeros in the fields it does not use. -/
def Shape.Gives (strict : Bool) (w : Word) (i : Instr) : Shape → Prop
  | .aluImm mk => ∃ dst, fieldReg isGpr (dstField w) = .ok dst ∧ mk dst (immField w) = i ∧
      (strict = true → srcField w = 0 ∧ offField w = 0)
  | .addSp mk => ∃ dst, fieldReg isAddDst (dstField w) = .ok dst ∧ mk dst (immField w) = i ∧
      (strict = true → srcField w = 0 ∧ offField w = 0)
  | .byteSwap mk => ∃ dst size, fieldReg isGpr (dstField w) = .ok dst ∧ selectorOf (immField w) = some size ∧
      mk dst size = i ∧ (strict = true → srcField w = 0 ∧ offField w = 0)
  | .aluReg mk => ∃ dst src, fieldReg isGpr (dstField w) = .ok dst ∧ fieldReg isReadable (srcField w) = .ok src ∧
      mk dst src = i ∧ (strict = true → offField w = 0 ∧ immField w = 0)
  | .load mk => ∃ dst src, fieldReg isGpr (dstField w) = .ok dst ∧ fieldReg isReadable (srcField w) = .ok src ∧
      mk dst src (offField w) = i ∧ (strict = true → immField w = 0)
  | .storeImm mk => ∃ dst, fieldReg isReadable (dstField w) = .ok dst ∧ mk dst (offField w) (immField w) = i ∧
      (strict = true → srcField w = 0)
  | .storeReg mk => ∃ dst src, fieldReg isReadable (dstField w) = .ok dst ∧
      fieldReg isReadable (srcField w) = .ok src ∧ mk dst (offField w) src = i ∧ (strict = true → immField w = 0)
  | .offOnly mk => mk (offField w) = i ∧ (strict = true → dstField w = 0 ∧ srcField w = 0 ∧ immField w = 0)
  | .jcondImm mk => ∃ dst, fieldReg isGpr (dstField w) = .ok dst ∧ mk dst (immField w) (offField w) = i ∧
      (strict = true → srcField w = 0)
  | .jcondReg mk => ∃ dst src, fieldReg isGpr (dstField w) = .ok dst ∧ fieldReg isReadable (srcField w) = .ok src ∧
      mk dst src (offField w) = i ∧ (strict = true → immField w = 0)
  | .srcOnly mk => ∃ src, fieldReg isGpr (srcField w) = .ok src ∧ mk src = i ∧
      (strict = true → dstField w = 0 ∧ offField w = 0 ∧ immField w = 0)
  | .bare j => j = i ∧
      (strict = true → dstField w = 0 ∧ srcField w = 0 ∧ offField w = 0 ∧ immField w = 0)

theorem except_bind_eq_ok {α β : Type} {x : Except DecodeError α} {k : α → Except DecodeError β} {b : β} :
    x >>= k = .ok b ↔ ∃ a, x = .ok a ∧ k a = .ok b := by
  cases x <;> simp [bind, Except.bind]

/-- `decodeShape` answers an instruction exactly as `Shape.Gives` says. -/
theorem decodeShape_eq_ok {strict : Bool} {w : Word} {shape : Shape} {i : Instr} :
    decodeShape strict w shape = .ok i ↔ shape.Gives strict w i := by
  cases shape with
  | byteSwap mk =>
    simp only [decodeShape, Shape.Gives, except_bind_eq_ok]
    cases selectorOf (immField w) <;> simp [unusedZero_ok]
  | aluImm | addSp | aluReg | load | storeImm | storeReg | offOnly | jcondImm | jcondReg | srcOnly | bare =>
    simp [decodeShape, Shape.Gives, except_bind_eq_ok, unusedZero_ok, and_assoc]

/-- A byte with a row in the table is an entry of it. -/
theorem mem_opcodeTable_of_shapeOf {opc : BitVec 8} {shape : Shape} (h : shapeOf opc = some shape) :
    (opc, shape) ∈ opcodeTable := by
  obtain ⟨row, hrow, rfl⟩ := Option.map_eq_some_iff.mp h
  obtain rfl : row.1 = opc := by simpa using List.find?_some hrow
  exact List.mem_of_find?_eq_some hrow

/-- The decoder answers an instruction through a row of the table. -/
theorem decode_eq_ok {strict : Bool} {w : Word} {i : Instr} :
    decode strict w = .ok i ↔ ∃ shape, shapeOf (opcField w) = some shape ∧ shape.Gives strict w i := by
  cases h : shapeOf (opcField w) with
  | none => simp [decode_reserved h]
  | some shape => simp [decode_of_shape h, decodeShape_eq_ok]

/-! ## Decoded instructions are well-formed -/

/-- The constructor of a row asks of its registers what the decoder checks. -/
def Shape.ChecksRegisters : Shape → Prop
  | .aluImm mk => ∀ dst imm, (mk dst imm).wellFormed = isGpr dst
  | .addSp mk => ∀ dst imm, (mk dst imm).wellFormed = isAddDst dst
  | .byteSwap mk => ∀ dst size, (mk dst size).wellFormed = isGpr dst
  | .aluReg mk => ∀ dst src, (mk dst src).wellFormed = (isGpr dst && isReadable src)
  | .load mk => ∀ dst src off, (mk dst src off).wellFormed = (isGpr dst && isReadable src)
  | .storeImm mk => ∀ dst off imm, (mk dst off imm).wellFormed = isReadable dst
  | .storeReg mk => ∀ dst off src, (mk dst off src).wellFormed = (isReadable dst && isReadable src)
  | .offOnly mk => ∀ off, (mk off).wellFormed = true
  | .jcondImm mk => ∀ dst imm off, (mk dst imm off).wellFormed = isGpr dst
  | .jcondReg mk => ∀ dst src off, (mk dst src off).wellFormed = (isGpr dst && isReadable src)
  | .srcOnly mk => ∀ src, (mk src).wellFormed = isGpr src
  | .bare i => i.wellFormed = true

theorem opcodeTable_checksRegisters : ∀ row ∈ opcodeTable, row.2.ChecksRegisters := by
  simp only [opcodeTable, opcodesClass1, opcodesClass2, opcodesClass3, opcodesClass4, opcodesClass5, opcodesClass6,
    opcodesClass7, List.cons_append, List.nil_append, List.forall_mem_cons, List.not_mem_nil, false_imp_iff,
    implies_true, and_true, Shape.ChecksRegisters]
  and_intros <;> intros <;> rfl

theorem Shape.Gives.wellFormed {strict : Bool} {w : Word} {shape : Shape} {i : Instr}
    (hc : shape.ChecksRegisters) (h : shape.Gives strict w i) : i.wellFormed = true := by
  cases shape with
  | aluImm mk | addSp mk | storeImm mk | jcondImm mk | srcOnly mk =>
    obtain ⟨r, hr, rfl, -⟩ := h
    rw [hc, (fieldReg_ok hr).1]
  | byteSwap mk =>
    obtain ⟨dst, size, hdst, -, rfl, -⟩ := h
    rw [hc, (fieldReg_ok hdst).1]
  | aluReg mk | load mk | storeReg mk | jcondReg mk =>
    obtain ⟨dst, src, hdst, hsrc, rfl, -⟩ := h
    rw [hc, (fieldReg_ok hdst).1, (fieldReg_ok hsrc).1, Bool.and_self]
  | offOnly mk => obtain ⟨rfl, -⟩ := h; exact hc _
  | bare j => obtain ⟨rfl, -⟩ := h; exact hc

/-- The decoder answers well-formed instructions only (R72). -/
theorem decode_wellFormed {strict : Bool} {w : Word} {i : Instr} (h : decode strict w = .ok i) :
    i.wellFormed = true := by
  obtain ⟨shape, hs, hg⟩ := decode_eq_ok.mp h
  exact hg.wellFormed (opcodeTable_checksRegisters _ (mem_opcodeTable_of_shapeOf hs))

/-! ## The rows of R26 -/

/-- The rows of the validity table of R26, by the register fields they use. -/
inductive RegisterRow where
  | addSp | dstOnly | dstSrc | storeImm | storeReg | srcOnly | noRegister
  deriving DecidableEq

/-- The row of R26 that an operand shape falls under. -/
def Shape.row : Shape → RegisterRow
  | .addSp _ => .addSp
  | .aluImm _ | .byteSwap _ | .jcondImm _ => .dstOnly
  | .aluReg _ | .load _ | .jcondReg _ => .dstSrc
  | .storeImm _ => .storeImm
  | .storeReg _ => .storeReg
  | .srcOnly _ => .srcOnly
  | .offOnly _ | .bare _ => .noRegister

/-- The opcode bytes of a row, in the lists of the statements. -/
def RegisterRow.opcodes : RegisterRow → List Nat
  | .addSp => [0x07]
  | .dstOnly => dstOnlyOpcodes
  | .dstSrc => dstSrcOpcodes
  | .storeImm => storeImmOpcodes
  | .storeReg => storeRegOpcodes
  | .srcOnly => [0x8D]
  | .noRegister => noRegisterOpcodes

/-- The numbers a row allows in the two register fields. -/
def RegisterRow.Allows (dst src : Nat) : RegisterRow → Prop
  | .addSp => dst ≤ 9 ∨ dst = 11
  | .dstOnly => dst ≤ 9
  | .dstSrc => dst ≤ 9 ∧ src ≤ 10
  | .storeImm => dst ≤ 10
  | .storeReg => dst ≤ 10 ∧ src ≤ 10
  | .srcOnly => src ≤ 9
  | .noRegister => True

/-- The register fields that a row does not use hold 0. -/
def RegisterRow.UnusedZero (dst src : BitVec 4) : RegisterRow → Prop
  | .addSp | .dstOnly | .storeImm => src = 0
  | .dstSrc | .storeReg => True
  | .srcOnly => dst = 0
  | .noRegister => dst = 0 ∧ src = 0

/-- The opcode table and the lists of R26 sort the 100 assigned bytes alike. -/
theorem opcodeTable_row (r : RegisterRow) : ∀ e ∈ opcodeTable, e.1.toNat ∈ r.opcodes ↔ e.2.row = r := by
  cases r <;> decide

/-- Every byte of the lists of R26 has a row in the opcode table. -/
theorem shapeOf_isSome_of_mem_opcodes (r : RegisterRow) :
    ∀ n ∈ r.opcodes, (shapeOf (BitVec.ofNat 8 n)).isSome = true := by
  cases r <;> decide

theorem assigned_iff {w : Word} : Assigned w ↔ ∃ r : RegisterRow, (opcField w).toNat ∈ r.opcodes := by
  constructor
  · intro h
    simp only [Assigned, List.mem_cons, List.mem_append] at h
    rcases h with ((((h | h | h) | h) | h) | h) | h
    · exact ⟨.addSp, by simp [RegisterRow.opcodes, h]⟩
    · exact ⟨.srcOnly, by simp [RegisterRow.opcodes, h]⟩
    · exact ⟨.dstOnly, h⟩
    · exact ⟨.dstSrc, h⟩
    · exact ⟨.storeImm, h⟩
    · exact ⟨.storeReg, h⟩
    · exact ⟨.noRegister, h⟩
  · rintro ⟨r, h⟩
    cases r <;> simp_all [Assigned, RegisterRow.opcodes]

theorem exists_shape_of_assigned {w : Word} (h : Assigned w) : ∃ shape, shapeOf (opcField w) = some shape := by
  obtain ⟨r, hr⟩ := assigned_iff.mp h
  have := shapeOf_isSome_of_mem_opcodes r _ hr
  rwa [BitVec.ofNat_toNat, BitVec.setWidth_eq, Option.isSome_iff_exists] at this

section
variable {w : Word} {shape : Shape} (h : shapeOf (opcField w) = some shape)
include h

theorem mem_opcodes_iff (r : RegisterRow) : (opcField w).toNat ∈ r.opcodes ↔ shape.row = r :=
  opcodeTable_row r _ (mem_opcodeTable_of_shapeOf h)

theorem assigned_of_shapeOf : Assigned w := assigned_iff.mpr ⟨shape.row, (mem_opcodes_iff h _).mpr rfl⟩

theorem opcField_eq_addSp : (opcField w).toNat = 0x07 ↔ shape.row = .addSp := by
  rw [← mem_opcodes_iff h]; exact List.mem_singleton.symm

theorem opcField_eq_srcOnly : (opcField w).toNat = 0x8D ↔ shape.row = .srcOnly := by
  rw [← mem_opcodes_iff h]; exact List.mem_singleton.symm

/-- Of the clauses of `RegistersAllowed` the one of the word's own row says something. -/
theorem registersAllowed_iff : RegistersAllowed w ↔ shape.row.Allows (dstField w).toNat (srcField w).toNat := by
  have dstOnly := mem_opcodes_iff h .dstOnly
  have dstSrc := mem_opcodes_iff h .dstSrc
  have storeImm := mem_opcodes_iff h .storeImm
  have storeReg := mem_opcodes_iff h .storeReg
  simp only [RegisterRow.opcodes] at dstOnly dstSrc storeImm storeReg
  simp only [RegistersAllowed, opcField_eq_addSp h, opcField_eq_srcOnly h, dstOnly, dstSrc, storeImm, storeReg]
  cases shape.row <;> simp [RegisterRow.Allows]

theorem unusedRegistersZero_iff : UnusedRegistersZero w ↔ shape.row.UnusedZero (dstField w) (srcField w) := by
  have dstOnly := mem_opcodes_iff h .dstOnly
  have storeImm := mem_opcodes_iff h .storeImm
  have noRegister := mem_opcodes_iff h .noRegister
  simp only [RegisterRow.opcodes] at dstOnly storeImm noRegister
  simp only [UnusedRegistersZero, opcField_eq_addSp h, opcField_eq_srcOnly h, dstOnly, storeImm, noRegister]
  cases shape.row <;> simp [RegisterRow.UnusedZero]

end

/-! ## When the decoder refuses a register number -/

theorem isGpr_iff (r : Reg) : isGpr r = true ↔ r.val ≤ 9 := by simp [isGpr]

theorem isReadable_iff (r : Reg) : isReadable r = true ↔ r.val ≤ 10 := by simp [isReadable]

theorem isAddDst_iff (r : Reg) : isAddDst r = true ↔ r.val ≤ 9 ∨ r.val = 11 := by simp [isAddDst]

/-- The field holds the number of a register that is allowed there. -/
def FieldAllowed (allowed : Reg → Bool) (n : BitVec 4) : Prop := ∃ r : Reg, r.val = n.toNat ∧ allowed r = true

theorem fieldReg_eq_badRegister {allowed : Reg → Bool} {n : BitVec 4} :
    fieldReg allowed n = .error .badRegister ↔ ¬ FieldAllowed allowed n := by
  unfold fieldReg FieldAllowed
  constructor
  · rintro h ⟨⟨k, hk⟩, rfl, ha⟩
    simp [hk, ha] at h
  · intro h
    split
    · rename_i hn
      rw [if_neg fun ha => h ⟨⟨n.toNat, hn⟩, rfl, ha⟩]
    · rfl

/-- A test on the number of a register, read on the field. -/
theorem fieldAllowed_iff {allowed : Reg → Bool} {P : Nat → Prop} (hP : ∀ r : Reg, allowed r = true ↔ P r.val)
    (hlt : ∀ k, P k → k < 12) {n : BitVec 4} : FieldAllowed allowed n ↔ P n.toNat := by
  constructor
  · rintro ⟨r, hr, ha⟩
    exact hr ▸ (hP r).mp ha
  · exact fun h => ⟨⟨n.toNat, hlt _ h⟩, rfl, (hP _).mpr h⟩

theorem fieldAllowed_isGpr {n : BitVec 4} : FieldAllowed isGpr n ↔ n.toNat ≤ 9 :=
  fieldAllowed_iff (P := (· ≤ 9)) isGpr_iff (by omega)

theorem fieldAllowed_isReadable {n : BitVec 4} : FieldAllowed isReadable n ↔ n.toNat ≤ 10 :=
  fieldAllowed_iff (P := (· ≤ 10)) isReadable_iff (by omega)

theorem fieldAllowed_isAddDst {n : BitVec 4} : FieldAllowed isAddDst n ↔ n.toNat ≤ 9 ∨ n.toNat = 11 :=
  fieldAllowed_iff (P := fun k => k ≤ 9 ∨ k = 11) isAddDst_iff (by omega)

theorem unusedZero_ne_badRegister (strict zero : Bool) (i : Instr) :
    unusedZero strict zero i ≠ .error .badRegister := by
  unfold unusedZero; split <;> simp

/-- After a register field the decoder refuses a register for that field, or where the rest refuses one. -/
theorem fieldReg_bind_badRegister {allowed : Reg → Bool} {n : BitVec 4} {k : Reg → Except DecodeError Instr}
    {rest : Prop} (hk : ∀ r, k r = .error .badRegister ↔ ¬ rest) :
    fieldReg allowed n >>= k = .error .badRegister ↔ ¬ (FieldAllowed allowed n ∧ rest) := by
  have hbad := @fieldReg_eq_badRegister allowed n
  cases hr : fieldReg allowed n with
  | error e =>
    obtain rfl := fieldReg_error hr
    simpa [bind, Except.bind, hr] using fun ha => absurd ha (hbad.mp hr)
  | ok r =>
    have ha : FieldAllowed allowed n := by simpa [hr] using hbad.not
    simpa [bind, Except.bind, ha] using hk r

/-- The last register field: the checks after it refuse no register. -/
theorem fieldReg_bind_badRegister_last {allowed : Reg → Bool} {n : BitVec 4} {k : Reg → Except DecodeError Instr}
    (hk : ∀ r, k r ≠ .error .badRegister) :
    fieldReg allowed n >>= k = .error .badRegister ↔ ¬ FieldAllowed allowed n := by
  simpa using fieldReg_bind_badRegister (rest := True) fun r => by simpa using hk r

/-- For a row of the table the decoder refuses a register number exactly when the row of R26 does not allow it. -/
theorem decodeShape_eq_badRegister {strict : Bool} {w : Word} {shape : Shape} :
    decodeShape strict w shape = .error .badRegister ↔
      ¬ shape.row.Allows (dstField w).toNat (srcField w).toNat := by
  have last := unusedZero_ne_badRegister strict
  cases shape with
  | aluImm mk | jcondImm mk =>
    exact (fieldReg_bind_badRegister_last fun _ => last _ _).trans fieldAllowed_isGpr.not
  | addSp mk => exact (fieldReg_bind_badRegister_last fun _ => last _ _).trans fieldAllowed_isAddDst.not
  | byteSwap mk =>
    refine (fieldReg_bind_badRegister_last fun dst => ?_).trans fieldAllowed_isGpr.not
    cases selectorOf (immField w) with
    | none => simp
    | some size => exact last _ _
  | storeImm mk => exact (fieldReg_bind_badRegister_last fun _ => last _ _).trans fieldAllowed_isReadable.not
  | srcOnly mk => exact (fieldReg_bind_badRegister_last fun _ => last _ _).trans fieldAllowed_isGpr.not
  | aluReg mk | load mk | jcondReg mk =>
    exact (fieldReg_bind_badRegister fun _ => fieldReg_bind_badRegister_last fun _ => last _ _).trans
      (and_congr fieldAllowed_isGpr fieldAllowed_isReadable).not
  | storeReg mk =>
    exact (fieldReg_bind_badRegister fun _ => fieldReg_bind_badRegister_last fun _ => last _ _).trans
      (and_congr fieldAllowed_isReadable fieldAllowed_isReadable).not
  | offOnly mk | bare j => simpa [decodeShape, RegisterRow.Allows, Shape.row] using last _ _

/-- A word that decodes strictly has 0 in the register fields its row does not use. -/
theorem Shape.Gives.unusedZero {w : Word} {shape : Shape} {i : Instr} (h : shape.Gives true w i) :
    shape.row.UnusedZero (dstField w) (srcField w) := by
  cases shape with
  | aluImm mk | addSp mk =>
    obtain ⟨-, -, -, hz⟩ := h
    exact (hz rfl).1
  | byteSwap mk =>
    obtain ⟨-, -, -, -, -, hz⟩ := h
    exact (hz rfl).1
  | storeImm mk | jcondImm mk =>
    obtain ⟨-, -, -, hz⟩ := h
    exact hz rfl
  | srcOnly mk =>
    obtain ⟨-, -, -, hz⟩ := h
    exact (hz rfl).1
  | offOnly mk | bare j =>
    obtain ⟨-, hz⟩ := h
    exact ⟨(hz rfl).1, (hz rfl).2.1⟩
  | aluReg mk | load mk | storeReg mk | jcondReg mk => trivial

/-- Settles O6, row by row of R26: the opcode table and the lists of the statement sort the opcodes alike, and the
decoder checks for each shape what the row says. -/
theorem registerValidityIsTheTable : Obligations.RegisterValidityIsTheTable := by
  refine ⟨fun strict w ha => ?_, fun w i hi => ?_⟩
  · obtain ⟨shape, hs⟩ := exists_shape_of_assigned ha
    rw [decode_of_shape hs, decodeShape_eq_badRegister, registersAllowed_iff hs]
  · obtain ⟨shape, hs, hg⟩ := decode_eq_ok.mp hi
    have hallowed : RegistersAllowed w := by
      by_contra hbad
      rw [registersAllowed_iff hs, ← decodeShape_eq_badRegister (strict := true), decodeShape_eq_ok.mpr hg] at hbad
      cases hbad
    exact ⟨assigned_of_shapeOf hs, hallowed, (unusedRegistersZero_iff hs).mpr hg.unusedZero⟩

end Sys2Proof
end

section
/-! PROOFS. The frame pointer `r10` and the stack pointer `r11`: who writes them, and that no instruction shows the
value of `r11` (R23, R24). -/
namespace Sys2Proof.Machine
open Sys2Proof.Claim

/-! ## Who may name `r10` and `r11` -/

/-- A well-formed instruction writes a general register, but for `add64 r11, imm` (R26). -/
theorem destination_le_or {i : Instr} {dst : Reg} (hwf : i.wellFormed = true) (hdst : destination i = some dst) :
    dst.val ≤ 9 ∨ ∃ imm, i = .add64Imm 11 imm := by
  cases i with
  | add64Imm d imm =>
    obtain rfl : d = dst := Option.some.inj hdst
    exact ((isAddDst_iff d).mp hwf).imp_right fun h => ⟨imm, by rw [show d = 11 from Fin.ext h]⟩
  | _ => simp_all [Instr.wellFormed, destination, isGpr_iff]

/-- A well-formed instruction reads no register above `r10`, but for `add64 r11, imm` (R26). -/
theorem reads_le_or {i : Instr} (hwf : i.wellFormed = true) :
    (∀ r ∈ reads i, r.val ≤ 10) ∨ ∃ imm, i = .add64Imm 11 imm := by
  cases i with
  | add64Imm d imm =>
    refine ((isAddDst_iff d).mp hwf).imp (fun h r hr => ?_) fun h => ⟨imm, by rw [show d = 11 from Fin.ext h]⟩
    obtain rfl : r = d := List.mem_singleton.mp hr
    exact Nat.le_succ_of_le h
  | _ =>
    left
    simp only [Instr.wellFormed, isGpr_iff, isReadable_iff, Bool.and_eq_true] at hwf
    simp only [reads, List.forall_mem_cons, List.not_mem_nil, false_imp_iff, implies_true, and_true] <;> omega

/-- The default hooks and the decoder together: only `add64 r11, imm` writes a register above `r9`. -/
theorem Effect.reg_eq_of_wellFormed {i : Instr} {s t : State} (h : Effect i s t) (hh : s.params.hooks = .identity)
    (hwf : i.wellFormed = true) {r : Reg} (hr : 9 < r.val) :
    t.reg r = s.reg r ∨ (r = 11 ∧ ∃ imm, i = .add64Imm 11 imm) := by
  obtain heq | ⟨hdst, -⟩ := h.reg_eq_or hh r
  · exact .inl heq
  · obtain hle | ⟨imm, rfl⟩ := destination_le_or hwf hdst
    · omega
    · exact .inr ⟨(Option.some.inj hdst).symm, imm, rfl⟩

theorem instrAt_wellFormed {p : Params} {slot : Nat} {i : Instr} (h : instrAt p slot = some i) :
    i.wellFormed = true := by
  obtain ⟨w, -, hd⟩ := instrAt_eq_some.mp h
  exact decode_wellFormed hd

/-- Settles O22: the decoder answers well-formed instructions only, and of those only `add64 r11, imm` has a destination
above `r9`. -/
theorem framePointerIsNeverWritten : Obligations.FramePointerIsNeverWritten := by
  intro s t hh h
  obtain ⟨p, rfl⟩ | ⟨i, hi, he⟩ := step_effect h
  · exact ⟨rfl, .inl rfl⟩
  · have unchanged {r : Reg} := he.reg_eq_of_wellFormed hh (instrAt_wellFormed hi) (r := r)
    refine ⟨(unchanged (r := 10) (by decide)).resolve_right fun h => absurd h.1 (by decide), ?_⟩
    obtain heq | ⟨-, imm, rfl⟩ := unchanged (r := 11) (by decide)
    · exact .inl heq
    · exact .inr ⟨imm, hi⟩

/-! ## Two states that differ in `r11` alone -/

/-- Updates of two registers commute. -/
theorem State.setReg_comm (s : State) {q r : Reg} (h : q ≠ r) (v w : Word) :
    (s.setReg q v).setReg r w = (s.setReg r w).setReg q v := by
  have hne : q.val ≠ r.val := fun e => h (Fin.ext e)
  simp [State.setReg, Vector.set_comm _ _ hne]

/-- The later of two updates of one register stands. -/
theorem State.setReg_setReg (s : State) (q : Reg) (v w : Word) : (s.setReg q v).setReg q w = s.setReg q w := by
  simp [State.setReg]

theorem State.ext_reg {s t : State} (h : ∀ r : Reg, s.reg r = t.reg r) : s.regs = t.regs :=
  Vector.ext fun k hk => h ⟨k, hk⟩

/-- Two states agree but for the stack pointer exactly when one is the other with a value written to `r11`. -/
theorem agreeButStackPointer_iff {s s' : State} :
    AgreeButStackPointer s s' ↔ s.reg 11 ≠ .unwritten ∧ ∃ v, s' = s.setReg 11 v := by
  constructor
  · rintro ⟨hregs, h, h', hpc, hcs, hmem, hstatus, hparams⟩
    obtain ⟨v, hv⟩ := holds_of_ne_unwritten h'
    refine ⟨h, v, ?_⟩
    have : s'.regs = (s.setReg 11 v).regs := State.ext_reg fun r => by
      rw [State.reg_setReg]
      split
      · subst r; exact hv
      · exact (hregs r ‹_›).symm
    cases s'
    simp_all [State.setReg]
  · rintro ⟨h, v, rfl⟩
    exact ⟨fun r hr => (State.reg_setReg_ne s v hr).symm, h, by simp, rfl, rfl, rfl, rfl, rfl⟩

/-- An outcome with its next state, if it has one, changed. -/
def mapNext (g : State → State) : Out → Out
  | .next t => .next (g t)
  | .fault r => .fault r
  | .refused r => .refused r

@[simp] theorem mapNext_next (g : State → State) (t : State) : mapNext g (.next t) = .next (g t) := rfl

theorem mapNext_withReg (g : State → State) (s : State) (r : Reg) (k : Word → Out) :
    mapNext g (withReg s r k) = withReg s r fun a => mapNext g (k a) := by
  unfold withReg; split <;> rfl

theorem mapNext_withFn (g : State → State) (s : State) (k : FnRange → Out) :
    mapNext g (withFn s k) = withFn s fun f => mapNext g (k f) := by
  unfold withFn; split <;> rfl

section
variable {s : State} {q : Reg} {v : Word}

/-- A register that is not read may hold anything. -/
theorem withReg_setReg_ne {r : Reg} (h : r ≠ q) (k : Word → Out) : withReg (s.setReg q v) r k = withReg s r k := by
  simp [withReg, State.reg_setReg_ne s v h]

theorem advance_setReg (u : State) :
    advance (s.setReg q v) (u.setReg q v) = mapNext (·.setReg q v) (advance s u) := by
  simp only [advance, mapNext_withFn, apply_ite (mapNext _)]
  rfl

/-- Writing another register before the advance commutes with writing `q`. -/
theorem advance_setReg_setReg {dst : Reg} (h : dst ≠ q) (x : Word) :
    advance (s.setReg q v) ((s.setReg q v).setReg dst x) = mapNext (·.setReg q v) (advance s (s.setReg dst x)) := by
  rw [State.setReg_comm s h.symm, advance_setReg]

theorem finishDivision_setReg {dst : Reg} (h : dst ≠ q) (r : Except DivisionPanic Word) :
    finishDivision r dst (s.setReg q v) = mapNext (·.setReg q v) (finishDivision r dst s) := by
  cases r with
  | ok x => exact advance_setReg_setReg h x
  | error p => rfl

theorem finishStore_setReg (w : Width) (base : Word) (off : Off) (x : Nat) :
    finishStore w base off x (s.setReg q v) = mapNext (·.setReg q v) (finishStore w base off x s) := by
  have hw : memWrite (s.setReg q v) (effectiveAddress base off) w.bytes x =
    memWrite s (effectiveAddress base off) w.bytes x := rfl
  simp only [finishStore, hw]
  cases memWrite s (effectiveAddress base off) w.bytes x with
  | ok m => exact advance_setReg { s with mem := m }
  | error p => rfl

theorem load_setReg {w : Width} {dst src : Reg} {off : Off} (hr : src ≠ q) (hd : dst ≠ q) :
    load w dst src off (s.setReg q v) = mapNext (·.setReg q v) (load w dst src off s) := by
  unfold load
  rw [withReg_setReg_ne hr, mapNext_withReg]
  congr 1; funext base
  have hm : memRead (s.setReg q v) (effectiveAddress base off) w.bytes =
    memRead s (effectiveAddress base off) w.bytes := rfl
  simp only [hm]
  cases memRead s (effectiveAddress base off) w.bytes with
  | ok x => exact advance_setReg_setReg hd _
  | error p => rfl

theorem jumpIf_setReg (c : Bool) (off : Off) :
    jumpIf c off (s.setReg q v) = mapNext (·.setReg q v) (jumpIf c off s) := by
  simp only [jumpIf, mapNext_withFn, apply_ite (mapNext _)]
  rfl

theorem callTo_setReg (hh : s.params.hooks = .identity) (target : Option Nat) (reported : Target) :
    callTo target reported (s.setReg q v) = mapNext (·.setReg q v) (callTo target reported s) := by
  unfold callTo
  rw [apply_ite (mapNext _)]
  cases target with
  | none => rfl
  | some n =>
    simp only [mapNext_withFn, apply_ite (mapNext _), State.setReg_params, hh, saveRegs_identity, onCall_identity]
    rfl

theorem returnOrHalt_setReg (hh : s.params.hooks = .identity) :
    returnOrHalt (s.setReg q v) = mapNext (·.setReg q v) (returnOrHalt s) := by
  rcases List.eq_nil_or_concat s.cs with hcs | ⟨fs, f, hcs⟩
  · rw [returnOrHalt_empty hcs, returnOrHalt_empty (s := s.setReg q v) hcs]
    rfl
  · rw [List.concat_eq_append] at hcs
    rw [returnOrHalt_frame hcs, returnOrHalt_frame (s := s.setReg q v) hcs]
    simp [hh, State.setReg]

theorem Profile.reads_avoid {i : Instr} {rs : List Reg} {d : Option Reg} {b c : Bool} (p : Profile i rs d b c)
    (hr : ∀ r ∈ reads i, r ≠ q) : rs.Forall (· ≠ q) :=
  List.forall_iff_forall_mem.mpr (p.reads_eq ▸ hr)

theorem Profile.avoids {i : Instr} {rs : List Reg} {dst : Reg} {b c : Bool} (p : Profile i rs (some dst) b c)
    (hr : ∀ r ∈ reads i, r ≠ q) (hd : destination i ≠ some q) : rs.Forall (· ≠ q) ∧ dst ≠ q :=
  ⟨p.reads_avoid hr, fun h => hd (h ▸ p.destination_eq)⟩

/-- Under the default hooks an instruction that neither reads nor writes a register runs alike whatever value is put
there, and leaves it there. -/
theorem exec_setReg {i : Instr} (hh : s.params.hooks = .identity) (hr : ∀ r ∈ reads i, r ≠ q)
    (hd : destination i ≠ some q) : exec i (s.setReg q v) = mapNext (·.setReg q v) (exec i s) := by
  cases operation i with
  | update f dst run profile =>
    obtain ⟨hdst, hd⟩ := profile.avoids hr hd
    simp only [run, updateReg, withReg_setReg_ne hdst, mapNext_withReg, advance_setReg_setReg hd, State.setReg_params]
  | update2 f dst src run profile =>
    obtain ⟨⟨hdst, hsrc⟩, hd⟩ := profile.avoids hr hd
    simp only [run, updateReg2, withReg_setReg_ne hdst, withReg_setReg_ne hsrc, mapNext_withReg,
      advance_setReg_setReg hd, State.setReg_params]
  | const x dst run profile =>
    obtain ⟨-, hd⟩ := profile.avoids hr hd
    simp only [run, loadReg, advance_setReg_setReg hd]
  | copy f dst src run profile =>
    obtain ⟨hsrc, hd⟩ := profile.avoids hr hd
    simp only [run, copyReg, withReg_setReg_ne hsrc, mapNext_withReg, advance_setReg_setReg hd]
  | divide f dst run profile =>
    obtain ⟨hdst, hd⟩ := profile.avoids hr hd
    simp only [run, divideReg, withReg_setReg_ne hdst, mapNext_withReg, finishDivision_setReg hd]
  | divide2 f dst src run profile =>
    obtain ⟨⟨hdst, hsrc⟩, hd⟩ := profile.avoids hr hd
    simp only [run, divideReg2, withReg_setReg_ne hdst, withReg_setReg_ne hsrc, mapNext_withReg,
      finishDivision_setReg hd]
  | load w dst src off run profile =>
    obtain ⟨hsrc, hd⟩ := profile.avoids hr hd
    simp only [run, load_setReg hsrc hd]
  | storeImm w dst off x run profile =>
    have hdst := profile.reads_avoid hr
    simp only [run, storeImm, withReg_setReg_ne hdst, mapNext_withReg, finishStore_setReg, State.setReg_params]
  | storeReg w dst off src run profile =>
    obtain ⟨hdst, hsrc⟩ := profile.reads_avoid hr
    simp only [run, storeReg, withReg_setReg_ne hdst, withReg_setReg_ne hsrc, mapNext_withReg, finishStore_setReg]
  | jump off =>
    simp only [exec, execJa, jump, mapNext_withFn, apply_ite (mapNext _)]
    rfl
  | jumpIfImm c dst imm off run profile =>
    have hdst := profile.reads_avoid hr
    simp only [run, jumpIfImm, withReg_setReg_ne hdst, mapNext_withReg, jumpIf_setReg]
  | jumpIfReg c dst src off run profile =>
    obtain ⟨hdst, hsrc⟩ := profile.reads_avoid hr
    simp only [run, jumpIfReg, withReg_setReg_ne hdst, withReg_setReg_ne hsrc, mapNext_withReg, jumpIf_setReg]
  | call off => exact callTo_setReg hh _ _
  | callx src =>
    have hsrc : src ≠ q := hr src (List.mem_singleton_self src)
    simp only [exec, execCallx, withReg_setReg_ne hsrc, mapNext_withReg, callTo_setReg hh, State.setReg_params]
  | exit => exact returnOrHalt_setReg hh

/-- An update of one register leaves the same but for that register, whatever value it read there. -/
theorem updateReg_setReg {f : Word → Word} {t : State} (h : updateReg f q s = .next t) :
    ∃ x, updateReg f q (s.setReg q v) = .next (t.setReg q x) := by
  obtain ⟨a, -, h⟩ := updateReg_next h
  have hrun : updateReg f q (s.setReg q v) = advance (s.setReg q v) (s.setReg q (f v)) := by
    rw [updateReg_holds f (State.reg_setReg_self s q v), State.setReg_setReg]
  obtain ⟨g, hg, ⟨hlt, rfl⟩ | ⟨hle, rfl⟩⟩ := advance_next h
  · refine ⟨f v, hrun.trans ((advance_inside (s := s.setReg q v) _ hg hlt).trans ?_)⟩
    simp [State.setReg]
  · exact ⟨v, hrun.trans (advance_outside (s := s.setReg q v) _ hg hle)⟩

end

/-- Under the default hooks a well-formed instruction runs alike whatever `r11` holds. -/
theorem exec_setReg_stackPointer {i : Instr} {s t : State} (hwf : i.wellFormed = true)
    (hh : s.params.hooks = .identity) (v : Word) (h : exec i s = .next t) :
    ∃ x, exec i (s.setReg 11 v) = .next (t.setReg 11 x) := by
  by_cases hadd : ∃ imm, i = .add64Imm 11 imm
  · obtain ⟨imm, rfl⟩ := hadd
    exact updateReg_setReg h
  · refine ⟨v, ?_⟩
    have hreads : ∀ r ∈ reads i, r ≠ 11 := by
      rintro r hr rfl
      exact absurd ((reads_le_or hwf).resolve_right hadd 11 hr) (by decide)
    have hdst : destination i ≠ some 11 := fun hd =>
      absurd ((destination_le_or hwf hd).resolve_right hadd) (by decide)
    rw [exec_setReg hh hreads hdst, h, mapNext_next]

/-- Settles O23: the two states are one state with two values in `r11`, and the decoded instruction runs alike on
both. -/
theorem stackPointerIsUnobservable : Obligations.StackPointerIsUnobservable := by
  intro s s' t hh hagree h
  obtain ⟨hne, v, rfl⟩ := agreeButStackPointer_iff.mp hagree
  obtain ⟨hrun, w, hw, ⟨e, hd, rfl⟩ | ⟨i, hd, hexec⟩⟩ := step_next h
  · refine ⟨_, (step_running (s := s.setReg 11 v) hrun hw).trans (runWord_error (s := s.setReg 11 v) hd), ?_⟩
    exact agreeButStackPointer_iff.mpr ⟨hne, v, rfl⟩
  · obtain ⟨x, hx⟩ := exec_setReg_stackPointer (decode_wellFormed hd) hh v hexec
    refine ⟨_, (step_running (s := s.setReg 11 v) hrun hw).trans ((runWord_ok (s := s.setReg 11 v) hd).trans hx), ?_⟩
    refine agreeButStackPointer_iff.mpr ⟨?_, x, rfl⟩
    obtain hreg | ⟨-, y, hreg⟩ := (exec_effect hexec).reg_eq_or hh 11
    · exact hreg ▸ hne
    · simp [hreg]

end Sys2Proof.Machine
end

section
/-! PROOFS. The states a run starts from: the state after reset and the launch state (R34). -/
namespace Sys2Proof.Machine
open Sys2Proof.Claim

/-! ## The state after reset -/

@[simp] theorem reset_reg (r : Reg) : State.reset.reg r = .holds 0 := by simp [State.reg, State.reset]

/-- Settles O20, field by field. -/
theorem resetValues : Obligations.ResetValues := ⟨reset_reg, rfl, rfl, rfl, rfl, rfl⟩

/-- Settles O15: nothing is listed in memory, no call is active, and every register holds 0. -/
theorem resetIsCanonical : Obligations.ResetIsCanonical :=
  ⟨⟨rfl, fun _ hc => absurd hc List.not_mem_nil, Nat.zero_le _⟩, fun r => by simp⟩

/-! ## The launch memory -/

/-- One entry of `InitMem` (log 13): a byte at an address outside every region is dropped. -/
def initByte (memMap : List Region) (m : Memory) (c : Nat × Byte) : Memory :=
  if mapped memMap c.1 then writeByte m c.1 c.2 else m

theorem initialMemory_eq_foldl (memMap : List Region) (initMem : List (Nat × Byte)) :
    initialMemory memMap initMem = initMem.foldl (initByte memMap) [] := rfl

theorem wf_initByte {memMap : List Region} {m : Memory} (hm : Memory.wf m = true) (c : Nat × Byte) :
    Memory.wf (initByte memMap m c) = true := by
  unfold initByte
  split
  · exact wf_writeByte hm _ _
  · exact hm

theorem readByte_initByte_self {memMap : List Region} {m : Memory} {a : Nat} (hm : Memory.wf m = true)
    (ha : mapped memMap a = true) (b : Byte) : readByte (initByte memMap m (a, b)) a = b := by
  simp [initByte, ha, readByte_writeByte_self hm]

theorem readByte_initByte_ne {memMap : List Region} {m : Memory} {a : Nat} {c : Nat × Byte} (h : c.1 ≠ a) :
    readByte (initByte memMap m c) a = readByte m a := by
  unfold initByte
  split
  · exact readByte_writeByte_ne m _ h.symm
  · rfl

/-- Entries that give a mapped address one byte alone leave that byte there, if one of them names the address or the
byte stood there before. -/
theorem readByte_foldl_initByte {memMap : List Region} {a : Nat} {b : Byte} (ha : mapped memMap a = true)
    {l : List (Nat × Byte)} (hl : ∀ c ∈ l, c.1 = a → c.2 = b) {m : Memory} (hm : Memory.wf m = true)
    (h : (a, b) ∈ l ∨ readByte m a = b) : readByte (l.foldl (initByte memMap) m) a = b := by
  induction l generalizing m with
  | nil => exact h.resolve_left List.not_mem_nil
  | cons c l ih =>
    refine ih (fun d hd => hl d (List.mem_cons_of_mem _ hd)) (wf_initByte hm c) ?_
    by_cases hc : c.1 = a
    · obtain rfl : c = (a, b) := Prod.ext hc (hl c List.mem_cons_self hc)
      exact .inr (readByte_initByte_self hm ha b)
    · refine h.imp (fun hmem => ?_) fun hread => (readByte_initByte_ne hc).trans hread
      exact (List.mem_cons.mp hmem).resolve_left fun heq => hc (heq ▸ rfl)

/-- A mapped address to which `InitMem` gives one byte holds it at the launch (R34). -/
theorem readByte_initialMemory {memMap : List Region} {initMem : List (Nat × Byte)} {a : Nat} {b : Byte}
    (ha : mapped memMap a = true) (hmem : (a, b) ∈ initMem) (hone : ∀ c ∈ initMem, c.1 = a → c.2 = b) :
    readByte (initialMemory memMap initMem) a = b := by
  rw [initialMemory_eq_foldl]
  exact readByte_foldl_initByte ha hone rfl (.inl hmem)

/-! ## The launch state -/

theorem launch_eq_some {input : LaunchInput} {s : State} (h : launch input = some s) :
    paramsValid input.params = true ∧ s =
      { regs := input.initRegs
        pc := input.params.entry
        cs := []
        mem := initialMemory input.params.memMap input.initMem
        status := .running
        params := input.params } := by
  unfold launch at h
  split at h
  · exact ⟨‹_›, (Option.some.inj h).symm⟩
  · cases h

/-- Settles O18: the launch state as written out, and its memory byte by byte. -/
theorem launchStateIsTheTable : Obligations.LaunchStateIsTheTable := by
  intro input s h
  obtain ⟨-, rfl⟩ := launch_eq_some h
  exact ⟨rfl, rfl, rfl, rfl, rfl, fun a b ha hmem hone =>
    readByte_initialMemory ((mapped_iff _ _).mpr ha) hmem hone⟩

end Sys2Proof.Machine
end

section
/-! PROOFS. The byte image of a program: the eight bytes of a slot, and the slots one after another (R55). -/
namespace Sys2Proof
open Sys2Proof.Claim

theorem bytesOfWord_eq (w : Word) : bytesOfWord w =
    [w.extractLsb' 0 8, w.extractLsb' 8 8, w.extractLsb' 16 8, w.extractLsb' 24 8,
      w.extractLsb' 32 8, w.extractLsb' 40 8, w.extractLsb' 48 8, w.extractLsb' 56 8] := rfl

/-- The reader takes the image of one word off the front and goes on behind it. -/
theorem wordsOfImage_bytesOfWord_append (w : Word) (rest : List Byte) :
    wordsOfImage (bytesOfWord w ++ rest) = (wordsOfImage rest).map (w :: ·) := by
  have h := wordsOfImage_bytesOfWord w
  simp only [bytesOfWord_eq, wordsOfImage, List.cons_append, List.nil_append, Option.map_some, Option.some.injEq,
    List.cons.injEq, and_true] at h ⊢
  rw [h]

theorem wordsOfImage_flatMap_bytesOfWord (ws : List Word) : wordsOfImage (ws.flatMap bytesOfWord) = some ws := by
  induction ws with
  | nil => rfl
  | cons w ws ih => rw [List.flatMap_cons, wordsOfImage_bytesOfWord_append, ih, Option.map_some]

/-- Settles O9: the bytes and the fields are digits of the same number, and the image is read back word by word. -/
theorem programImageIsLittleEndian : Obligations.ProgramImageIsLittleEndian := by
  refine ⟨fun w => ⟨_, _, _, _, _, _, _, _, bytesOfWord_eq w, rfl, ?regs, ?off, ?imm⟩,
    wordsOfImage_flatMap_bytesOfWord⟩
  case regs => simp only [dstField, srcField, field_toNat]; omega
  case off => simp only [offField, field_toNat]; omega
  case imm => simp only [immField, field_toNat]; omega

end Sys2Proof
end

section
/-! PROOFS. Reads and writes of the data memory (20_memory.md): which of them panic, the bytes they see and leave, and
accesses of different widths to the same bytes. -/
namespace Sys2Proof.Machine
open Sys2Proof.Claim

/-! ## The tests of an access -/

theorem accessible_iff_allMapped (memMap : List Region) (a n : Nat) :
    accessible memMap a n = true ↔ AllMapped memMap a n := by
  simp only [accessible_iff, mapped_iff, AllMapped, Mapped]

theorem accessible_eq_false_iff (memMap : List Region) (a n : Nat) :
    accessible memMap a n = false ↔ ¬ AllMapped memMap a n := by
  rw [← accessible_iff_allMapped, Bool.not_eq_true]

theorem touchesReadOnly_iff_inReadOnly (memMap : List Region) (a n : Nat) :
    touchesReadOnly memMap a n = true ↔ ∃ k < n, InReadOnly memMap (a + k) := by
  simp only [touchesReadOnly_iff, readOnly_iff, InReadOnly]

theorem touchesReadOnly_eq_false_iff (memMap : List Region) (a n : Nat) :
    touchesReadOnly memMap a n = false ↔ ∀ k < n, ¬ InReadOnly memMap (a + k) := by
  simp only [← Bool.not_eq_true, touchesReadOnly_iff_inReadOnly, not_exists, not_and]

/-- An access inside an accessible one is accessible. -/
theorem accessible_within {memMap : List Region} {a n k j : Nat} (h : accessible memMap a n = true)
    (hkj : k + j ≤ n) : accessible memMap (a + k) j = true := by
  obtain ⟨htop, hmap⟩ := (accessible_iff _ _ _).mp h
  refine (accessible_iff _ _ _).mpr ⟨by omega, fun i hi => ?_⟩
  rw [Nat.add_assoc]
  exact hmap (k + i) (by omega)

/-- Inside an accessible range the address does not wrap (R46). -/
theorem toNat_add_ofNat_of_accessible {memMap : List Region} {a : Word} {n k : Nat}
    (h : accessible memMap a.toNat n = true) (hk : k < n) : (a + BitVec.ofNat 64 k).toNat = a.toNat + k := by
  have htop := ((accessible_iff _ _ _).mp h).1
  rw [BitVec.toNat_add, BitVec.toNat_ofNat]
  omega

/-! ## Reading -/

theorem readBytes_eq_littleEndian (m : Memory) (a n : Nat) : readBytes m a n = littleEndian m a n :=
  readBytes_eq_sum m a n

/-- Settles O43: the test of the read is `AllMapped`, and what it then answers is the sum of the bytes at their
places. -/
theorem memReadIsLittleEndian : Obligations.MemReadIsLittleEndian := by
  refine fun s a n => ⟨fun h => ?_, fun h => memRead_error ((accessible_eq_false_iff _ _ _).mpr h)⟩
  rw [memRead_ok ((accessible_iff_allMapped _ _ _).mpr h), readBytes_eq_littleEndian]

/-! ## Writing -/

/-- What a write leaves in canonical memory: its own bytes, and every other byte as it was. -/
theorem stored_writeBytes {m : Memory} (hm : Memory.wf m = true) (a v n : Nat) :
    Stored m (writeBytes m a v n) a n v := by
  refine ⟨fun k hk => ?_, fun x hx => readByte_writeBytes_outside m a v n hx⟩
  rw [readByte_writeBytes_inside hm a v n hk, BitVec.toNat_ofNat]

/-- Settles O44: the two tests of the write in their order, and the bytes of `writeBytes` after both. -/
theorem memWriteStoresBytesOrPanics : Obligations.MemWriteStoresBytesOrPanics := by
  refine fun s a n v hm => ⟨fun h => ?outOfBounds, fun h hro => ?violation, fun h hrw => ?written⟩
  case outOfBounds => exact memWrite_outOfBounds v ((accessible_eq_false_iff _ _ _).mpr h)
  case violation =>
    exact memWrite_violation v ((accessible_iff_allMapped _ _ _).mpr h)
      ((touchesReadOnly_iff_inReadOnly _ _ _).mpr hro)
  case written =>
    exact ⟨_, memWrite_ok v ((accessible_iff_allMapped _ _ _).mpr h) ((touchesReadOnly_eq_false_iff _ _ _).mpr hrw),
      stored_writeBytes hm a.toNat v n, wf_writeBytes hm a.toNat v n⟩

/-! ## Accesses of different widths -/

/-- A write that completes passed the test of its addresses. -/
theorem memWrite_eq_ok {s : State} {a : Word} {n v : Nat} {m : Memory} (h : memWrite s a n v = .ok m) :
    accessible s.params.memMap a.toNat n = true ∧ m = writeBytes s.mem a.toNat v n := by
  obtain ⟨hacc, -, he⟩ | he | he := memWrite_cases s a n v
  · exact ⟨hacc, Except.ok.inj (h.symm.trans he)⟩
  all_goals cases h.symm.trans he

/-- A read inside a range just written gives the digits of the number that stand there. -/
theorem readBytes_writeBytes_within {m : Memory} (hm : Memory.wf m = true) (a v : Nat) {n k j : Nat}
    (hkj : k + j ≤ n) : readBytes (writeBytes m a v n) (a + k) j = v / 256 ^ k % 256 ^ j := by
  rw [← readBytes_writeBytes hm (a + k) (v / 256 ^ k) j]
  refine readBytes_congr fun i hi => ?_
  rw [readByte_writeBytes_inside hm _ _ _ hi, Nat.add_assoc,
    readByte_writeBytes_inside hm _ _ _ (show k + i < n by omega), Nat.pow_add, Nat.div_div_eq_div_mul]

/-- A read of `j` bytes at offset `k` inside a range just written gives the bytes `k` to `k + j - 1` of the number
(R44). -/
theorem memRead_within_memWrite {s : State} {a : Word} {n v k j : Nat} {m : Memory} (hm : Memory.wf s.mem = true)
    (h : memWrite s a n v = .ok m) (hk : k < n) (hkj : k + j ≤ n) :
    memRead { s with mem := m } (a + BitVec.ofNat 64 k) j = .ok (v / 256 ^ k % 256 ^ j) := by
  obtain ⟨hacc, rfl⟩ := memWrite_eq_ok h
  have haddr := toNat_add_ofNat_of_accessible hacc hk
  rw [memRead_ok (haddr ▸ accessible_within hacc hkj), haddr, readBytes_writeBytes_within hm _ _ hkj]

/-- A byte written inside a range just written replaces that byte of the number and leaves the others (R44). -/
theorem readByte_memWrite_byte_within {s : State} {a : Word} {n v k : Nat} {m m' : Memory} {b : Byte}
    (hm : Memory.wf s.mem = true) (h : memWrite s a n v = .ok m) (hk : k < n)
    (h' : memWrite { s with mem := m } (a + BitVec.ofNat 64 k) 1 b.toNat = .ok m') {j : Nat} (hj : j < n) :
    (readByte m' (a.toNat + j)).toNat = if j = k then b.toNat else v / 256 ^ j % 256 := by
  obtain ⟨hacc, rfl⟩ := memWrite_eq_ok h
  obtain ⟨-, rfl⟩ := memWrite_eq_ok h'
  have hstored := stored_writeBytes hm a.toNat v n
  have hbyte := stored_writeBytes (wf_writeBytes hm a.toNat v n) (a.toNat + k) b.toNat 1
  rw [toNat_add_ofNat_of_accessible hacc hk]
  split
  case isTrue hjk =>
    subst hjk
    simpa [Nat.mod_eq_of_lt b.isLt] using hbyte.1 0 Nat.one_pos
  case isFalse hjk =>
    rw [hbyte.2 _ (by omega)]
    exact hstored.1 j hj

/-- Settles O48: each narrower read is a read inside the written range, at its offset and of its width. -/
theorem mixedWidthsSeeTheBytes : Obligations.MixedWidthsSeeTheBytes := by
  intro s a v m hv hm h
  have hread {k j : Nat} (hk : k < 8) (hkj : k + j ≤ 8) := memRead_within_memWrite hm h hk hkj
  have hbase {j : Nat} (hj : j ≤ 8) : memRead { s with mem := m } a j = .ok (v % 256 ^ j) := by
    simpa using hread (k := 0) (j := j) (by omega) (by omega)
  refine ⟨fun k hk => by simpa using hread (j := 1) hk hk, hbase (j := 4) (by omega), ?high,
    hread (k := 2) (j := 2) (by omega) (by omega), ?whole,
    fun k hk b m' h' j hj => readByte_memWrite_byte_within hm h hk h' hj⟩
  case high =>
    have hhigh := hread (k := 4) (j := 4) (by omega) (by omega)
    rwa [Nat.mod_eq_of_lt (by omega)] at hhigh
  case whole =>
    rw [hbase (j := 8) (by omega), Nat.mod_eq_of_lt (by omega)]

end Sys2Proof.Machine
end


section
/-! PROOFS. Decoding and encoding undo each other (R60, R66, R71 to R73): a row of the opcode table builds its
instructions from the fields it uses, and the word of an instruction is those fields under the row's byte. -/
namespace Sys2Proof
open Sys2Proof.Claim

/-! ## The fields of a word, and which of them a row uses -/

/-- The four fields of a word besides its opcode byte (R60). -/
@[ext] structure Fields where
  dst : BitVec 4
  src : BitVec 4
  off : Off
  imm : Imm

def fieldsOf (w : Word) : Fields := ⟨dstField w, srcField w, offField w, immField w⟩

/-- The word with these fields under an opcode byte. -/
def Fields.word (opc : BitVec 8) (f : Fields) : Word := mkWord opc f.dst f.src f.off f.imm

@[simp] theorem Fields.opcField_word (opc : BitVec 8) (f : Fields) : opcField (f.word opc) = opc := opcField_mkWord ..

@[simp] theorem Fields.fieldsOf_word (opc : BitVec 8) (f : Fields) : fieldsOf (f.word opc) = f := by
  simp [fieldsOf, Fields.word]

@[simp] theorem Fields.word_fieldsOf (w : Word) : (fieldsOf w).word (opcField w) = w := mkWord_fields w

/-- Which of the four fields the rows of a shape use (R66). -/
structure FieldUse where
  dst : Bool
  src : Bool
  off : Bool
  imm : Bool

def Shape.uses : Shape → FieldUse
  | .aluImm _ | .addSp _ | .byteSwap _ => ⟨true, false, false, true⟩
  | .aluReg _ => ⟨true, true, false, false⟩
  | .load _ | .storeReg _ | .jcondReg _ => ⟨true, true, true, false⟩
  | .storeImm _ | .jcondImm _ => ⟨true, false, true, true⟩
  | .offOnly _ => ⟨false, false, true, false⟩
  | .srcOnly _ => ⟨false, true, false, false⟩
  | .bare _ => ⟨false, false, false, false⟩

/-- The fields with 0 in place of those that are not used. -/
def FieldUse.keep (u : FieldUse) (f : Fields) : Fields where
  dst := if u.dst then f.dst else 0
  src := if u.src then f.src else 0
  off := if u.off then f.off else 0
  imm := if u.imm then f.imm else 0

/-- The bits of the opcode byte and of the used fields. -/
def FieldUse.mask (u : FieldUse) : Word :=
  (u.keep ⟨BitVec.allOnes 4, BitVec.allOnes 4, BitVec.allOnes 16, BitVec.allOnes 32⟩).word (BitVec.allOnes 8)

theorem opcField_and (v w : Word) : opcField (v &&& w) = opcField v &&& opcField w := BitVec.extractLsb'_and

theorem fieldsOf_and (v w : Word) : fieldsOf (v &&& w) = ⟨(fieldsOf v).dst &&& (fieldsOf w).dst,
    (fieldsOf v).src &&& (fieldsOf w).src, (fieldsOf v).off &&& (fieldsOf w).off,
    (fieldsOf v).imm &&& (fieldsOf w).imm⟩ := by
  simp only [fieldsOf, dstField, srcField, offField, immField, BitVec.extractLsb'_and]

/-- Two words with the same opcode byte and the same fields are the same. -/
theorem word_ext {v w : Word} (hopc : opcField v = opcField w) (hf : fieldsOf v = fieldsOf w) : v = w := by
  rw [← Fields.word_fieldsOf v, hopc, hf, Fields.word_fieldsOf]

/-- The used bits of a word are the word of the fields kept. -/
theorem FieldUse.and_mask (w : Word) (u : FieldUse) : w &&& u.mask = (u.keep (fieldsOf w)).word (opcField w) := by
  have and_ite {n : Nat} (b : Bool) (x : BitVec n) :
      (x &&& if b then BitVec.allOnes n else 0) = if b then x else 0 := by cases b <;> simp
  apply word_ext
  · simp only [FieldUse.mask, opcField_and, Fields.opcField_word, BitVec.and_allOnes]
  · rw [fieldsOf_and, FieldUse.mask, Fields.fieldsOf_word, Fields.fieldsOf_word]
    simp only [FieldUse.keep, and_ite]

/-- Nothing is dropped exactly when every unused field is 0. -/
theorem FieldUse.keep_eq_self {u : FieldUse} {f : Fields} : u.keep f = f ↔
    (u.dst = false → f.dst = 0) ∧ (u.src = false → f.src = 0) ∧ (u.off = false → f.off = 0) ∧
      (u.imm = false → f.imm = 0) := by
  have keep_iff {n : Nat} (b : Bool) (x : BitVec n) : (if b then x else 0) = x ↔ (b = false → x = 0) := by
    cases b
    · simpa using eq_comm
    · simp
  exact Fields.ext_iff.trans
    (and_congr (keep_iff ..) (and_congr (keep_iff ..) (and_congr (keep_iff ..) (keep_iff ..))))

/-! ## The instructions of a row -/

/-- The instructions that a row of the given shape makes, each with the fields of its word. -/
inductive Shape.Makes : Shape → Instr → Fields → Prop
  | aluImm (mk : Reg → Imm → Instr) (dst : Reg) (imm : Imm) :
      Makes (.aluImm mk) (mk dst imm) ⟨regField dst, 0, 0, imm⟩
  | addSp (mk : Reg → Imm → Instr) (dst : Reg) (imm : Imm) :
      Makes (.addSp mk) (mk dst imm) ⟨regField dst, 0, 0, imm⟩
  | byteSwap (mk : Reg → SwapSize → Instr) (dst : Reg) (size : SwapSize) :
      Makes (.byteSwap mk) (mk dst size) ⟨regField dst, 0, 0, size.selector⟩
  | aluReg (mk : Reg → Reg → Instr) (dst src : Reg) :
      Makes (.aluReg mk) (mk dst src) ⟨regField dst, regField src, 0, 0⟩
  | load (mk : Reg → Reg → Off → Instr) (dst src : Reg) (off : Off) :
      Makes (.load mk) (mk dst src off) ⟨regField dst, regField src, off, 0⟩
  | storeImm (mk : Reg → Off → Imm → Instr) (dst : Reg) (off : Off) (imm : Imm) :
      Makes (.storeImm mk) (mk dst off imm) ⟨regField dst, 0, off, imm⟩
  | storeReg (mk : Reg → Off → Reg → Instr) (dst : Reg) (off : Off) (src : Reg) :
      Makes (.storeReg mk) (mk dst off src) ⟨regField dst, regField src, off, 0⟩
  | offOnly (mk : Off → Instr) (off : Off) : Makes (.offOnly mk) (mk off) ⟨0, 0, off, 0⟩
  | jcondImm (mk : Reg → Imm → Off → Instr) (dst : Reg) (imm : Imm) (off : Off) :
      Makes (.jcondImm mk) (mk dst imm off) ⟨regField dst, 0, off, imm⟩
  | jcondReg (mk : Reg → Reg → Off → Instr) (dst src : Reg) (off : Off) :
      Makes (.jcondReg mk) (mk dst src off) ⟨regField dst, regField src, off, 0⟩
  | srcOnly (mk : Reg → Instr) (src : Reg) : Makes (.srcOnly mk) (mk src) ⟨0, regField src, 0, 0⟩
  | bare (i : Instr) : Makes (.bare i) i ⟨0, 0, 0, 0⟩

/-- What a row of the table makes has the row's opcode byte over its fields as its word, and uses the row's bits. -/
theorem opcodeTable_makes : ∀ row ∈ opcodeTable, ∀ i f, row.2.Makes i f →
    encode i = f.word row.1 ∧ usedBits i = row.2.uses.mask := by
  simp only [opcodeTable, opcodesClass1, opcodesClass2, opcodesClass3, opcodesClass4, opcodesClass5, opcodesClass6,
    opcodesClass7, List.cons_append, List.nil_append, List.forall_mem_cons, List.not_mem_nil, false_imp_iff,
    implies_true, and_true]
  and_intros <;> rintro _ _ ⟨⟩ <;> exact ⟨rfl, rfl⟩

theorem Shape.Makes.encode_eq {opc : BitVec 8} {shape : Shape} {i : Instr} {f : Fields} (h : shape.Makes i f)
    (hs : shapeOf opc = some shape) : encode i = f.word opc ∧ usedBits i = shape.uses.mask :=
  opcodeTable_makes _ (mem_opcodeTable_of_shapeOf hs) i f h

/-- Every instruction is made by the row of its opcode byte. -/
theorem exists_row (i : Instr) : ∃ shape f, shapeOf i.opcode = some shape ∧ shape.Makes i f := by
  cases i <;> exact ⟨_, _, rfl, by constructor⟩

/-- The fields a row does not use are 0 in the words of its instructions. -/
theorem Shape.Makes.keep_eq {shape : Shape} {i : Instr} {f : Fields} (h : shape.Makes i f) : shape.uses.keep f = f := by
  cases h <;> rfl

/-! ## What the decoder reads -/

theorem fieldReg_eq_ok {allowed : Reg → Bool} {n : BitVec 4} {r : Reg} :
    fieldReg allowed n = .ok r ↔ allowed r = true ∧ regField r = n :=
  ⟨fieldReg_ok, by rintro ⟨h, rfl⟩; exact fieldReg_regField h⟩

theorem selectorOf_eq_some {imm : Imm} {size : SwapSize} : selectorOf imm = some size ↔ size.selector = imm :=
  ⟨selectorOf_some, by rintro rfl; exact selectorOf_selector size⟩

/-- `STRICT_UNUSED_FIELDS` asks for zeros in the unused fields, and changes nothing else (R71). -/
theorem Shape.gives_strict_iff {strict : Bool} {w : Word} {shape : Shape} {i : Instr} :
    shape.Gives strict w i ↔
      shape.Gives false w i ∧ (strict = true → shape.uses.keep (fieldsOf w) = fieldsOf w) := by
  cases shape <;> simp [Shape.Gives, Shape.uses, FieldUse.keep_eq_self, fieldsOf, and_assoc, ← exists_and_right]

theorem Shape.Gives.makes {w : Word} {shape : Shape} {i : Instr} (h : shape.Gives false w i) :
    shape.Makes i (shape.uses.keep (fieldsOf w)) := by
  have field {allowed : Reg → Bool} {n : BitVec 4} {r : Reg} (h : fieldReg allowed n = .ok r) : n = regField r :=
    (fieldReg_ok h).2.symm
  cases shape with
  | aluImm mk | addSp mk | storeImm mk | jcondImm mk | srcOnly mk =>
    obtain ⟨r, hr, rfl, -⟩ := h
    simp only [Shape.uses, FieldUse.keep, fieldsOf, field hr]
    constructor
  | byteSwap mk =>
    obtain ⟨dst, size, hdst, hsize, rfl, -⟩ := h
    simp only [Shape.uses, FieldUse.keep, fieldsOf, field hdst, ← selectorOf_some hsize]
    constructor
  | aluReg mk | load mk | storeReg mk | jcondReg mk =>
    obtain ⟨dst, src, hdst, hsrc, rfl, -⟩ := h
    simp only [Shape.uses, FieldUse.keep, fieldsOf, field hdst, field hsrc]
    constructor
  | offOnly mk | bare j =>
    obtain ⟨rfl, -⟩ := h
    constructor

/-- An instruction with allowed registers, made of the used fields of a word, is what its row gives. -/
theorem Shape.Makes.gives {w : Word} {shape : Shape} {i : Instr} (hc : shape.ChecksRegisters)
    (hwf : i.wellFormed = true) (h : shape.Makes i (shape.uses.keep (fieldsOf w))) : shape.Gives false w i := by
  generalize hf : shape.uses.keep (fieldsOf w) = f at h
  obtain ⟨hdst, hsrc, hoff, himm⟩ := Fields.ext_iff.mp hf
  cases h with
  | aluImm mk r | addSp mk r | storeImm mk r | jcondImm mk r | srcOnly mk r =>
    rw [hc] at hwf
    subst_vars
    exact ⟨r, fieldReg_eq_ok.mpr ⟨hwf, by symm; assumption⟩, rfl, nofun⟩
  | byteSwap mk dst size =>
    rw [hc] at hwf
    exact ⟨dst, size, fieldReg_eq_ok.mpr ⟨hwf, hdst.symm⟩, selectorOf_eq_some.mpr himm.symm, rfl, nofun⟩
  | aluReg mk dst src | load mk dst src off | jcondReg mk dst src | storeReg mk dst off src =>
    rw [hc, Bool.and_eq_true] at hwf
    subst_vars
    exact ⟨dst, src, fieldReg_eq_ok.mpr ⟨hwf.1, hdst.symm⟩, fieldReg_eq_ok.mpr ⟨hwf.2, hsrc.symm⟩, rfl, nofun⟩
  | offOnly mk off => exact ⟨congrArg mk hoff, nofun⟩
  | bare => exact ⟨rfl, nofun⟩

/-! ## The two round trips -/

/-- The decoder answers the well-formed instruction that the word's row makes of the fields it uses, and, when strict,
only where the other fields are 0 (R71 to R73). -/
theorem decode_eq_ok_iff {strict : Bool} {w : Word} {i : Instr} : decode strict w = .ok i ↔
    i.wellFormed = true ∧ ∃ shape, shapeOf (opcField w) = some shape ∧
      shape.Makes i (shape.uses.keep (fieldsOf w)) ∧
      (strict = true → shape.uses.keep (fieldsOf w) = fieldsOf w) := by
  rw [decode_eq_ok]
  constructor
  · rintro ⟨shape, hs, hg⟩
    obtain ⟨hfalse, hstrict⟩ := Shape.gives_strict_iff.mp hg
    exact ⟨hg.wellFormed (opcodeTable_checksRegisters _ (mem_opcodeTable_of_shapeOf hs)), shape, hs, hfalse.makes,
      hstrict⟩
  · rintro ⟨hwf, shape, hs, hm, hstrict⟩
    have hc := opcodeTable_checksRegisters _ (mem_opcodeTable_of_shapeOf hs)
    exact ⟨shape, hs, Shape.gives_strict_iff.mpr ⟨hm.gives hc hwf, hstrict⟩⟩

/-- Settles O4: the used bits of a word are the word of the fields its row keeps, which is the word of the instruction
that the row makes of them. -/
theorem decodingReadsExactlyTheUsedBits : Obligations.DecodingReadsExactlyTheUsedBits := by
  intro strict w i
  rw [decode_eq_ok_iff]
  refine and_congr_right fun _ => ⟨?_, ?_⟩
  · rintro ⟨shape, hs, hm, hstrict⟩
    obtain ⟨henc, hused⟩ := hm.encode_eq hs
    refine ⟨by rw [hused, FieldUse.and_mask, henc], fun h => ?_⟩
    rw [henc, hstrict h, Fields.word_fieldsOf]
  · rintro ⟨hbits, hstrict⟩
    obtain ⟨shape, f, hs, hm⟩ := exists_row i
    obtain ⟨henc, hused⟩ := hm.encode_eq hs
    rw [hused, henc, FieldUse.and_mask] at hbits
    obtain rfl : shape.uses.keep (fieldsOf w) = f := by simpa using congrArg fieldsOf hbits
    have hopc : opcField w = i.opcode := by simpa using congrArg opcField hbits
    refine ⟨shape, hopc ▸ hs, hm, fun h => ?_⟩
    simpa using (congrArg fieldsOf ((hstrict h).trans henc)).symm

/-- The word of an instruction has no bit set that the instruction does not use. -/
theorem encode_and_usedBits (i : Instr) : encode i &&& usedBits i = encode i := by
  obtain ⟨shape, f, hs, hm⟩ := exists_row i
  obtain ⟨henc, hused⟩ := hm.encode_eq hs
  rw [hused, FieldUse.and_mask, henc, Fields.opcField_word, Fields.fieldsOf_word, hm.keep_eq]

/-- Settles O2: the word of an instruction has exactly the bits that the decoder asks for. -/
theorem decodingUndoesEncoding : Obligations.DecodingUndoesEncoding := fun strict i hwf =>
  (decodingReadsExactlyTheUsedBits strict (encode i) i).mpr ⟨hwf, encode_and_usedBits i, fun _ => rfl⟩

/-- Settles O3: strict decoding reads the whole word. -/
theorem encodingUndoesDecoding : Obligations.EncodingUndoesDecoding := fun w i h =>
  have ⟨hwf, _, hword⟩ := (decodingReadsExactlyTheUsedBits true w i).mp h
  ⟨(hword rfl).symm, hwf⟩

/-! ## A word and the number it is (R60), and written-out words -/

/-- Settles O1: the number of the built word, and the fields cut out of it. -/
theorem wordIsTheSumOfItsFields : Obligations.WordIsTheSumOfItsFields := by
  refine ⟨mkWord_toNat, fun w => ⟨mkWord_fields w, ?_, field_toNat w 8 4, field_toNat w 12 4, field_toNat w 16 16, ?_⟩⟩
  · rw [opcField, field_toNat, pow_zero, Nat.div_one]
  · rw [immField, field_toNat, Nat.mod_eq_of_lt (by omega)]

theorem decode_of_encode_eq {strict : Bool} {w : Word} {i : Instr} (hwf : i.wellFormed = true) (hw : encode i = w) :
    decode strict w = .ok i := hw ▸ decodingUndoesEncoding strict i hwf

/-- Settles O8: each word is the word of its instruction, which is well-formed. -/
theorem sampleWordsDecode : Obligations.SampleWordsDecode := by
  and_intros <;> exact decode_of_encode_eq rfl rfl

end Sys2Proof
end


section
/-! PROOFS. Which words are instructions: the valid words of R72, and the 156 reserved opcode bytes of R67. -/
namespace Sys2Proof
open Sys2Proof.Claim

/-! ## Valid words (R72) -/

theorem exists_fieldReg_iff {allowed : Reg → Bool} {n : BitVec 4} :
    (∃ r, fieldReg allowed n = .ok r) ↔ FieldAllowed allowed n := by
  have hbad := fieldReg_eq_badRegister (allowed := allowed) (n := n)
  cases h : fieldReg allowed n with
  | ok r => simpa [h] using hbad
  | error e => simpa [h, fieldReg_error h] using hbad

theorem exists_selectorOf_iff {imm : Imm} :
    (∃ size, selectorOf imm = some size) ↔ imm = 16 ∨ imm = 32 ∨ imm = 64 := by
  simp only [selectorOf_eq_some]
  constructor
  · rintro ⟨size, rfl⟩
    cases size <;> simp [SwapSize.selector]
  · rintro (rfl | rfl | rfl)
    exacts [⟨.swap16, rfl⟩, ⟨.swap32, rfl⟩, ⟨.swap64, rfl⟩]

/-- Whether the `imm` field is the selector of `be` (R120). -/
def Shape.selects : Shape → Bool
  | .byteSwap _ => true
  | .aluImm _ | .addSp _ | .aluReg _ | .load _ | .storeImm _ | .storeReg _ | .offOnly _ | .jcondImm _ | .jcondReg _
  | .srcOnly _ | .bare _ => false

theorem exists_gpr {n : BitVec 4} (h : n.toNat ≤ 9) : ∃ r, fieldReg isGpr n = .ok r :=
  exists_fieldReg_iff.mpr (fieldAllowed_isGpr.mpr h)

theorem exists_readable {n : BitVec 4} (h : n.toNat ≤ 10) : ∃ r, fieldReg isReadable n = .ok r :=
  exists_fieldReg_iff.mpr (fieldAllowed_isReadable.mpr h)

/-- What a row gives was allowed: its register numbers, and the selector of `be`. -/
theorem Shape.Gives.allowed {w : Word} {shape : Shape} {i : Instr} (h : shape.Gives false w i) :
    shape.row.Allows (dstField w).toNat (srcField w).toNat ∧
      (shape.selects = true → ∃ size, selectorOf (immField w) = some size) := by
  constructor
  · by_contra hbad
    rw [← decodeShape_eq_badRegister (strict := false), decodeShape_eq_ok.mpr h] at hbad
    cases hbad
  · intro hsel
    cases shape with
    | byteSwap mk =>
      obtain ⟨-, size, -, hsize, -⟩ := h
      exact ⟨size, hsize⟩
    | _ => cases hsel

/-- Not strict, a row gives an instruction exactly when it allows the register numbers and the selector. -/
theorem Shape.exists_gives_iff {w : Word} {shape : Shape} : (∃ i, shape.Gives false w i) ↔
    shape.row.Allows (dstField w).toNat (srcField w).toNat ∧
      (shape.selects = true → immField w = 16 ∨ immField w = 32 ∨ immField w = 64) := by
  simp only [← exists_selectorOf_iff]
  constructor
  · rintro ⟨i, h⟩
    exact h.allowed
  · rintro ⟨hrow, hsel⟩
    cases shape with
    | aluImm mk | jcondImm mk | srcOnly mk =>
      obtain ⟨r, hr⟩ := exists_gpr hrow
      exact ⟨_, r, hr, rfl, nofun⟩
    | addSp mk =>
      obtain ⟨dst, hdst⟩ := exists_fieldReg_iff.mpr (fieldAllowed_isAddDst.mpr hrow)
      exact ⟨_, dst, hdst, rfl, nofun⟩
    | byteSwap mk =>
      obtain ⟨dst, hdst⟩ := exists_gpr hrow
      obtain ⟨size, hsize⟩ := hsel rfl
      exact ⟨_, dst, size, hdst, hsize, rfl, nofun⟩
    | storeImm mk =>
      obtain ⟨dst, hdst⟩ := exists_readable hrow
      exact ⟨_, dst, hdst, rfl, nofun⟩
    | aluReg mk | load mk | jcondReg mk =>
      obtain ⟨dst, hdst⟩ := exists_gpr hrow.1
      obtain ⟨src, hsrc⟩ := exists_readable hrow.2
      exact ⟨_, dst, src, hdst, hsrc, rfl, nofun⟩
    | storeReg mk =>
      obtain ⟨dst, hdst⟩ := exists_readable hrow.1
      obtain ⟨src, hsrc⟩ := exists_readable hrow.2
      exact ⟨_, dst, src, hdst, hsrc, rfl, nofun⟩
    | offOnly mk | bare j => exact ⟨_, rfl, nofun⟩

/-- The opcode table and the lists of the statements agree on the selector and on the unused `off` and `imm` fields. -/
theorem opcodeTable_selects : ∀ e ∈ opcodeTable, e.1 = 0xDC ↔ e.2.selects = true := by decide

theorem opcodeTable_offUnused : ∀ e ∈ opcodeTable,
    (e.1.toNat % 8 = 4 ∨ e.1.toNat % 8 = 6 ∨ e.1.toNat % 8 = 7 ∨ e.1.toNat = 0x8D ∨ e.1.toNat = 0x95) ↔
      e.2.uses.off = false := by decide

theorem opcodeTable_immUnused : ∀ e ∈ opcodeTable,
    e.1.toNat ∉ 0x07 :: dstOnlyOpcodes ++ storeImmOpcodes ↔ e.2.uses.imm = false := by decide

section
variable {w : Word} {shape : Shape} (h : shapeOf (opcField w) = some shape)
include h

/-- The unused fields of a word, by the lists of the statements, are those its row does not use. -/
theorem unusedFieldsZero_iff : UnusedRegistersZero w ∧ UnusedOffsetZero w ∧ UnusedImmediateZero w ↔
    shape.uses.keep (fieldsOf w) = fieldsOf w := by
  have hmem := mem_opcodeTable_of_shapeOf h
  have hreg : shape.row.UnusedZero (dstField w) (srcField w) ↔
      (shape.uses.dst = false → dstField w = 0) ∧ (shape.uses.src = false → srcField w = 0) := by
    cases shape <;> simp [Shape.row, Shape.uses, RegisterRow.UnusedZero]
  have hoff := opcodeTable_offUnused _ hmem
  have himm := opcodeTable_immUnused _ hmem
  rw [unusedRegistersZero_iff h, hreg, UnusedOffsetZero, UnusedImmediateZero, hoff, himm, FieldUse.keep_eq_self,
    and_assoc]
  rfl

theorem valid_iff {strict : Bool} : Valid strict w ↔ ∃ i, decode strict w = .ok i := by
  simp only [decode_of_shape h, decodeShape_eq_ok]
  -- `strict` is named, or the rule rewrites its own right side, where it is `false`
  simp only [Shape.gives_strict_iff (strict := strict), exists_and_right, Shape.exists_gives_iff]
  rw [Valid, registersAllowed_iff h, unusedFieldsZero_iff h, opcodeTable_selects _ (mem_opcodeTable_of_shapeOf h),
    and_assoc]
  exact and_iff_right (assigned_of_shapeOf h)

end

/-- A word decodes exactly when it is valid. -/
theorem exists_decode_iff {strict : Bool} {w : Word} : (∃ i, decode strict w = .ok i) ↔ Valid strict w := by
  refine ⟨fun hi => ?_, fun hv => ?_⟩
  · obtain ⟨i, hi⟩ := hi
    obtain ⟨shape, hs, -⟩ := decode_eq_ok.mp hi
    exact (valid_iff hs).mpr ⟨i, hi⟩
  · obtain ⟨shape, hs⟩ := exists_shape_of_assigned hv.1
    exact (valid_iff hs).mp hv

/-- The decoder refuses a register number exactly where the opcode is assigned and its row of R26 does not allow it. -/
theorem decode_eq_badRegister {strict : Bool} {w : Word} :
    decode strict w = .error .badRegister ↔ Assigned w ∧ ¬ RegistersAllowed w := by
  refine ⟨fun hd => ?_, fun ⟨ha, hr⟩ => (registerValidityIsTheTable.1 strict w ha).mpr hr⟩
  cases hs : shapeOf (opcField w) with
  | none =>
    rw [decode_reserved hs] at hd
    cases hd
  | some shape =>
    have ha := assigned_of_shapeOf hs
    exact ⟨ha, (registerValidityIsTheTable.1 strict w ha).mp hd⟩

/-! ## Reserved opcodes (R67) -/

theorem shapeOf_eq_none {opc : BitVec 8} : shapeOf opc = none ↔ ∀ e ∈ opcodeTable, e.1 ≠ opc := by
  simp [shapeOf]

/-- Class by class, and within a class, the reserved bytes are listed in rising order. -/
theorem reservedBytes_rising : reservedBytes.Pairwise fun a b => 256 * (a % 8) + a < 256 * (b % 8) + b := by
  have : IsTrans Nat fun a b => 256 * (a % 8) + a < 256 * (b % 8) + b := ⟨fun _ _ _ => Nat.lt_trans⟩
  rw [← List.isChain_iff_pairwise]
  simp [reservedBytes]

theorem reservedBytes_length : reservedBytes.length = 156 := by simp [reservedBytes]

theorem reservedBytes_nodup : reservedBytes.Nodup := reservedBytes_rising.imp fun h heq => by simp [heq] at h

theorem lt_of_mem_reservedBytes : ∀ n ∈ reservedBytes, n < 256 := by
  simp only [reservedBytes, List.forall_mem_append]
  and_intros <;> decide

theorem opcodeTable_not_reserved : ∀ e ∈ opcodeTable, e.1.toNat ∉ reservedBytes := by
  simp only [opcodeTable, List.forall_mem_append]
  and_intros <;> decide

/-- The assigned and the reserved bytes are the 256 bytes, each once: they are apart, and 100 + 156 of them. -/
theorem assigned_append_reserved_perm :
    (opcodeTable.map (·.1.toNat) ++ reservedBytes).Perm (List.range 256) := by
  have hassigned : (opcodeTable.map (·.1.toNat)).Nodup :=
    List.map_map (g := BitVec.toNat) ▸ opcodeTable_nodup.2.map fun _ _ => BitVec.eq_of_toNat_eq
  have hapart : List.Disjoint (opcodeTable.map (·.1.toNat)) reservedBytes := by
    intro n hn hres
    obtain ⟨e, he, rfl⟩ := List.mem_map.mp hn
    exact opcodeTable_not_reserved e he hres
  have hnodup := hassigned.append reservedBytes_nodup hapart
  have hsub : opcodeTable.map (·.1.toNat) ++ reservedBytes ⊆ List.range 256 := by
    intro n hn
    rw [List.mem_range]
    rcases List.mem_append.mp hn with hn | hn
    · obtain ⟨e, -, rfl⟩ := List.mem_map.mp hn
      exact e.1.isLt
    · exact lt_of_mem_reservedBytes n hn
  refine (hnodup.subperm hsub).perm_of_length_le ?_
  rw [List.length_append, List.length_map, opcodeTable_nodup.1, reservedBytes_length, List.length_range]

theorem mem_reservedBytes_iff {opc : BitVec 8} : opc.toNat ∈ reservedBytes ↔ shapeOf opc = none := by
  rw [shapeOf_eq_none]
  constructor
  · rintro h e he rfl
    exact opcodeTable_not_reserved e he h
  · intro h
    have hall := assigned_append_reserved_perm.mem_iff.mpr (List.mem_range.mpr opc.isLt)
    refine (List.mem_append.mp hall).resolve_left fun hmem => ?_
    obtain ⟨e, he, heq⟩ := List.mem_map.mp hmem
    exact h e he (BitVec.eq_of_toNat_eq heq)

theorem unusedZero_ne_reservedOpcode (strict zero : Bool) (i : Instr) :
    unusedZero strict zero i ≠ .error .reservedOpcode := by
  unfold unusedZero; split <;> simp

theorem fieldReg_bind_ne_reservedOpcode {allowed : Reg → Bool} {n : BitVec 4} {k : Reg → Except DecodeError Instr}
    (hk : ∀ r, k r ≠ .error .reservedOpcode) : fieldReg allowed n >>= k ≠ .error .reservedOpcode := by
  cases h : fieldReg allowed n with
  | ok r => exact hk r
  | error e => rw [fieldReg_error h]; nofun

/-- A byte with a row is never refused as reserved. -/
theorem decodeShape_ne_reservedOpcode (strict : Bool) (w : Word) (shape : Shape) :
    decodeShape strict w shape ≠ .error .reservedOpcode := by
  have last := unusedZero_ne_reservedOpcode strict
  cases shape with
  | aluImm mk | addSp mk | storeImm mk | jcondImm mk | srcOnly mk =>
    exact fieldReg_bind_ne_reservedOpcode fun _ => last _ _
  | byteSwap mk =>
    refine fieldReg_bind_ne_reservedOpcode fun dst => ?_
    cases selectorOf (immField w) with
    | none => nofun
    | some size => exact last _ _
  | aluReg mk | load mk | storeReg mk | jcondReg mk =>
    exact fieldReg_bind_ne_reservedOpcode fun _ => fieldReg_bind_ne_reservedOpcode fun _ => last _ _
  | offOnly mk | bare j => exact last _ _

theorem decode_eq_reservedOpcode {strict : Bool} {w : Word} :
    decode strict w = .error .reservedOpcode ↔ (opcField w).toNat ∈ reservedBytes := by
  rw [mem_reservedBytes_iff]
  cases h : shapeOf (opcField w) with
  | none => simp [decode_reserved h]
  | some shape => simp [decode_of_shape h, decodeShape_ne_reservedOpcode]

end Sys2Proof
end


section
/-! PROOFS. What the machine does with the words it fetches that are no instructions (R67, R72), and that a well-formed
program has none. -/
namespace Sys2Proof.Machine
open Sys2Proof.Claim

theorem decodes_of_programWellFormed {p : Params} (hp : programWellFormed p = true) {w : Word} (hw : w ∈ p.text) :
    ∃ i, decode p.strictUnusedFields w = .ok i := by
  obtain ⟨slot, hlt, rfl⟩ := List.mem_iff_getElem.mp hw
  obtain ⟨i, hi, -⟩ := (programWellFormed_iff.mp hp).1 slot hlt
  obtain ⟨w, hw, hd⟩ := instrAt_eq_some.mp hi
  rw [List.getElem?_eq_getElem hlt] at hw
  cases hw
  exact ⟨i, hd⟩

theorem step_of_decode_error {s : State} {w : Word} {e : DecodeError} (hs : s.status = .running)
    (hw : fetch s = some w) (hd : decode s.params.strictUnusedFields w = .error e) :
    step s = .next (afterPanic s (invalidWordPanic s.pc w e)) := by
  rw [step_running hs hw, runWord_error hd]
  rfl

theorem invalidWordPanic_of_ne {pc : Nat} {w : Word} {e : DecodeError} (he : e ≠ .badRegister) :
    invalidWordPanic pc w e = .invalidInstruction pc w := by
  cases e with
  | badRegister => exact absurd rfl he
  | reservedOpcode | badSelector | unusedField => rfl

/-- Settles O5: the reserved bytes are those without a row in the opcode table. -/
theorem reservedOpcodesAreNoInstructions : Obligations.ReservedOpcodesAreNoInstructions := by
  refine ⟨reservedBytes_length, reservedBytes_nodup, fun strict w => decode_eq_reservedOpcode, fun p hp w hw hres => ?_,
    fun s w hs hw hres => step_of_decode_error hs hw (decode_eq_reservedOpcode.mpr hres)⟩
  obtain ⟨i, hi⟩ := decodes_of_programWellFormed hp hw
  rw [decode_eq_reservedOpcode.mpr hres] at hi
  cases hi

/-- Settles O7: a word decodes exactly when it is valid, and of the errors one alone is about registers (O6). -/
theorem validWordsDecodeAndInvalidWordsFault : Obligations.ValidWordsDecodeAndInvalidWordsFault := by
  refine ⟨fun strict w => exists_decode_iff, fun p hp w hw => exists_decode_iff.mp (decodes_of_programWellFormed hp hw),
    fun s w hs hw hinvalid => ⟨fun ha hr => ?_, fun hr => ?_⟩⟩
  · exact step_of_decode_error hs hw (decode_eq_badRegister.mpr ⟨ha, hr⟩)
  · cases hd : decode s.params.strictUnusedFields w with
    | ok i => exact absurd (exists_decode_iff.mp ⟨i, hd⟩) hinvalid
    | error e =>
      rw [step_of_decode_error hs hw hd, invalidWordPanic_of_ne]
      rintro rfl
      exact hr (decode_eq_badRegister.mp hd)

end Sys2Proof.Machine
end

section
/-! PROOFS. The word primitives of R7 and R11 and the numbers they stand for: the narrowings of an integer, the 32-bit
operations zero-extended, the byte swaps. -/
namespace Sys2Proof.Machine
open Sys2Proof.Claim

/-! ## Readings and narrowings of numbers (R7) -/

theorem wordOf_eq_ofInt (n : Int) : wordOf n = BitVec.ofInt 64 n := by
  have h := Int.emod_lt_of_pos n (b := 2 ^ 64) (by decide)
  apply BitVec.eq_of_toNat_eq
  rw [wordOf, BitVec.toNat_ofNat, BitVec.toNat_ofInt]
  exact Nat.mod_eq_of_lt (by omega)

/-- `(n) mod 2^32`, zero-extended, is what `n` narrowed to 32 bits is in a register. -/
theorem zext64_ofInt (n : Int) : zext64 (BitVec.ofInt 32 n) = wordOf32 n := by
  rw [zext64, ← BitVec.ofNat_toNat, BitVec.toNat_ofInt]
  rfl

theorem zext64_eq_ofNat (v : BitVec 32) : zext64 v = BitVec.ofNat 64 v.toNat := (BitVec.ofNat_toNat 64 v).symm

theorem sgn_toNat {w : Nat} (hw : 0 < w) (v : BitVec w) : sgn w v.toNat = v.toInt := by
  have hpow : 2 ^ w = 2 * 2 ^ (w - 1) := (mul_pow_sub_one hw.ne' 2).symm
  rw [sgn, BitVec.toInt_eq_toNat_cond]
  exact ite_congr (propext (by omega)) (fun _ => rfl) fun _ => by norm_cast

theorem sext64_eq_wordOf (v : BitVec 32) : sext64 v = wordOf (sgn 32 v.toNat) := by
  rw [wordOf_eq_ofInt, sgn_toNat (by decide)]
  rfl

@[simp] theorem toNat_trunc32 (a : Word) : (trunc32 a).toNat = low32 a := BitVec.toNat_setWidth 32 a

@[simp] theorem low32_mod_32 (a : Word) : low32 a % 32 = a.toNat % 32 := Nat.mod_mod_of_dvd _ ⟨2 ^ 27, rfl⟩

/-! ## 32-bit arithmetic, zero-extended (R102 to R109, R114, R115) -/

section
variable (x y : BitVec 32)

theorem ofInt_toNat : BitVec.ofInt 32 x.toNat = x := by
  rw [BitVec.ofInt_natCast, BitVec.ofNat_toNat, BitVec.setWidth_eq]

theorem zext64_add : zext64 (x + y) = wordOf32 (x.toNat + y.toNat) := by
  rw [← zext64_ofInt, BitVec.ofInt_add, ofInt_toNat, ofInt_toNat]

theorem zext64_sub : zext64 (x - y) = wordOf32 (x.toNat - y.toNat) := by
  rw [← zext64_ofInt, Int.sub_eq_add_neg, BitVec.ofInt_add, BitVec.ofInt_neg, ofInt_toNat, ofInt_toNat,
    BitVec.sub_eq_add_neg]

theorem zext64_or : zext64 (x ||| y) = BitVec.ofNat 64 (x.toNat ||| y.toNat) := by
  rw [zext64_eq_ofNat, BitVec.toNat_or]

theorem zext64_and : zext64 (x &&& y) = BitVec.ofNat 64 (x.toNat &&& y.toNat) := by
  rw [zext64_eq_ofNat, BitVec.toNat_and]

theorem zext64_xor : zext64 (x ^^^ y) = BitVec.ofNat 64 (x.toNat ^^^ y.toNat) := by
  rw [zext64_eq_ofNat, BitVec.toNat_xor]

/-! ## 32-bit shifts, zero-extended (R110 to R113, R118, R119) -/

theorem zext64_lsl32 : zext64 (lsl32 x y) = wordOf32 (x.toNat * 2 ^ (y.toNat % 32)) := by
  have hnat : lsl32 x y = BitVec.ofInt 32 ((x.toNat * 2 ^ (y.toNat % 32) : Nat) : Int) := by
    apply BitVec.eq_of_toNat_eq
    rw [lsl32, BitVec.toNat_shiftLeft, Nat.shiftLeft_eq, BitVec.ofInt_natCast, BitVec.toNat_ofNat]
  rw [hnat, zext64_ofInt]
  norm_cast

theorem zext64_lsr32 : zext64 (lsr32 x y) = BitVec.ofNat 64 (x.toNat / 2 ^ (y.toNat % 32)) := by
  rw [zext64_eq_ofNat, lsr32, BitVec.toNat_ushiftRight, Nat.shiftRight_eq_div_pow]

theorem zext64_asr32 : zext64 (asr32 x y) = wordOf32 (Int.fdiv (sgn 32 x.toNat) (2 ^ (y.toNat % 32))) := by
  have hint : (asr32 x y).toInt = Int.fdiv (sgn 32 x.toNat) (2 ^ (y.toNat % 32)) := by
    rw [asr32, BitVec.toInt_sshiftRight, Int.shiftRight_eq_div_pow, sgn_toNat (by decide),
      Int.fdiv_eq_ediv_of_nonneg _ (by positivity)]
    norm_cast
  rw [← hint, ← zext64_ofInt, BitVec.ofInt_toInt]

end

/-! ## Byte swaps (R7, R120) -/

/-- Reversing `m + n` bytes puts the reversed low `m` above the reversed `n` that follow. -/
theorem swapped_add (m n v : Nat) : swapped (m + n) v = swapped m v * 256 ^ n + swapped n (v / 256 ^ m) := by
  simp only [swapped, Finset.sum_range_add, Finset.sum_mul]
  refine congrArg₂ _ (Finset.sum_congr rfl fun k hk => ?_) (Finset.sum_congr rfl fun k hk => ?_)
  · rw [Finset.mem_range] at hk
    rw [Nat.mul_assoc, ← Nat.pow_add, show m + n - 1 - k = m - 1 - k + n by omega]
  · rw [Nat.div_div_eq_div_mul, ← Nat.pow_add, show m + n - 1 - (m + k) = n - 1 - k by omega]

/-- Reversing `n` bytes reads no byte above them. -/
theorem swapped_mod (n v : Nat) : swapped n (v % 256 ^ n) = swapped n v := by
  refine Finset.sum_congr rfl fun k hk => ?_
  rw [Finset.mem_range] at hk
  have hpow : 256 ^ n = 256 ^ k * (256 * 256 ^ (n - 1 - k)) := by
    rw [← Nat.pow_succ', ← Nat.pow_add]
    congr 1; omega
  rw [hpow, Nat.mod_mul_right_div_self, Nat.mod_mul_right_mod]

/-- Two reversed halves, one above the other, are the reversal of the whole. -/
theorem toNat_append_swapped {p q m n v : Nat} {x : BitVec p} {y : BitVec q} (hq : 2 ^ q = 256 ^ n)
    (hx : x.toNat = swapped m v) (hy : y.toNat = swapped n (v / 256 ^ m)) :
    (x ++ y).toNat = swapped (m + n) v := by
  rw [BitVec.toNat_append, ← Nat.shiftLeft_add_eq_or_of_lt y.isLt, Nat.shiftLeft_eq, hq, hx, hy, swapped_add]

theorem swapped_one (v : Nat) : swapped 1 v = v % 256 := by simp [swapped]

theorem toNat_bswap16 (v : BitVec 16) : (bswap16 v).toNat = swapped 2 v.toNat := by
  refine toNat_append_swapped (m := 1) (n := 1) rfl ?_ ?_ <;>
    rw [BitVec.extractLsb'_toNat, Nat.shiftRight_eq_div_pow, swapped_one]
  · rw [Nat.pow_zero, Nat.div_one]
  · rfl

theorem toNat_bswap32 (v : BitVec 32) : (bswap32 v).toNat = swapped 4 v.toNat := by
  refine toNat_append_swapped (m := 2) (n := 2) rfl ?_ ?_ <;>
    rw [toNat_bswap16, BitVec.extractLsb'_toNat, Nat.shiftRight_eq_div_pow]
  · rw [Nat.pow_zero, Nat.div_one]
    exact swapped_mod 2 _
  · exact swapped_mod 2 _

theorem toNat_bswap64 (v : Word) : (bswap64 v).toNat = swapped 8 v.toNat := by
  refine toNat_append_swapped (m := 4) (n := 4) rfl ?_ ?_ <;>
    rw [toNat_bswap32, field_toNat]
  · rw [Nat.pow_zero, Nat.div_one]
    exact swapped_mod 4 _
  · exact swapped_mod 4 _

theorem byteSwap_swap16 (a : Word) : byteSwap .swap16 a = BitVec.ofNat 64 (swapped 2 a.toNat) := by
  rw [byteSwap, ← BitVec.ofNat_toNat, toNat_bswap16, BitVec.toNat_setWidth]
  exact congrArg _ (swapped_mod 2 a.toNat)

theorem byteSwap_swap32 (a : Word) : byteSwap .swap32 a = BitVec.ofNat 64 (swapped 4 a.toNat) := by
  rw [byteSwap, ← BitVec.ofNat_toNat, toNat_bswap32, BitVec.toNat_setWidth]
  exact congrArg _ (swapped_mod 4 a.toNat)

theorem byteSwap_swap64 (a : Word) : byteSwap .swap64 a = BitVec.ofNat 64 (swapped 8 a.toNat) := by
  rw [← toNat_bswap64, BitVec.ofNat_toNat, BitVec.setWidth_eq]
  rfl

end Sys2Proof.Machine
end

section
/-! PROOFS. Class 4, 32-bit arithmetic and logic (40_alu32.md): each instruction completes with the number its rule
gives. -/
namespace Sys2Proof.Machine
open Sys2Proof.Claim

/-! ## Completion: what computes a value writes it and advances -/

section
variable {opc : BitVec 8} {i : Instr} {dst src : Reg}

theorem advance_setReg_afterWrite {s : State} (v : Word) (h : canAdvance s = true) :
    advance s (s.setReg dst v) = .next (afterWrite s dst v) := advance_of_canAdvance _ h

theorem writes_of_loadReg {v w : Word} (opcode : i.opcode = opc) (run : ∀ s, exec i s = loadReg v dst s)
    (value : v = w) : Writes opc i dst w :=
  ⟨opcode, fun s hadv => (run s).trans (value ▸ advance_setReg_afterWrite v hadv)⟩

theorem computesFromSrc_of_copyReg {f g : Word → Word} (opcode : i.opcode = opc)
    (run : ∀ s, exec i s = copyReg f dst src s) (value : ∀ b, f b = g b) : ComputesFromSrc opc i dst src g :=
  ⟨opcode, fun s b hadv hb => by rw [run, copyReg_holds f hb, advance_setReg_afterWrite _ hadv, value]⟩

theorem computesFromDst_of_updateReg {f : State → Word → Word} {g : Params → Word → Word} (opcode : i.opcode = opc)
    (run : ∀ s, exec i s = updateReg (f s) dst s) (value : ∀ s a, f s a = g s.params a) :
    ComputesFromDst opc i dst g :=
  ⟨opcode, fun s a hadv ha => by rw [run, updateReg_holds (f s) ha, advance_setReg_afterWrite _ hadv, value]⟩

theorem computesFromBoth_of_updateReg2 {f : State → Word → Word → Word} {g : Params → Word → Word → Word}
    (opcode : i.opcode = opc) (run : ∀ s, exec i s = updateReg2 (f s) dst src s)
    (value : ∀ s a b, f s a b = g s.params a b) : ComputesFromBoth opc i dst src g :=
  ⟨opcode, fun s a b hadv ha hb => by
    rw [run, updateReg2_holds (f s) ha hb, advance_setReg_afterWrite _ hadv, value]⟩

end

/-! ## The statements -/

/-- Settles O27: each instruction is `updateReg` or `updateReg2` of a 32-bit operation, and the operation is the rule's
on the low halves (`zext64_add` to `zext64_xor`). -/
theorem arithmeticAndLogic32 : Obligations.ArithmeticAndLogic32 := fun _ _ _ =>
  ⟨computesFromDst_of_updateReg rfl (fun _ => rfl) fun _ _ => by rw [zext64_add, toNat_trunc32],
   computesFromBoth_of_updateReg2 rfl (fun _ => rfl) fun _ _ _ => by rw [zext64_add, toNat_trunc32, toNat_trunc32],
   computesFromDst_of_updateReg rfl (fun _ => rfl) fun _ _ => by rw [zext64_sub, toNat_trunc32],
   computesFromBoth_of_updateReg2 rfl (fun _ => rfl) fun _ _ _ => by rw [zext64_sub, toNat_trunc32, toNat_trunc32],
   computesFromDst_of_updateReg rfl (fun _ => rfl) fun _ _ => by rw [zext64_or, toNat_trunc32],
   computesFromBoth_of_updateReg2 rfl (fun _ => rfl) fun _ _ _ => by rw [zext64_or, toNat_trunc32, toNat_trunc32],
   computesFromDst_of_updateReg rfl (fun _ => rfl) fun _ _ => by rw [zext64_and, toNat_trunc32],
   computesFromBoth_of_updateReg2 rfl (fun _ => rfl) fun _ _ _ => by rw [zext64_and, toNat_trunc32, toNat_trunc32],
   computesFromDst_of_updateReg rfl (fun _ => rfl) fun _ _ => by rw [zext64_xor, toNat_trunc32],
   computesFromBoth_of_updateReg2 rfl (fun _ => rfl) fun _ _ _ => by rw [zext64_xor, toNat_trunc32, toNat_trunc32]⟩

/-- Settles O28: a count of 32 bits and the 64-bit register it comes from are the same modulo 32 (`low32_mod_32`). -/
theorem shifts32 : Obligations.Shifts32 := fun _ _ _ =>
  ⟨computesFromDst_of_updateReg rfl (fun _ => rfl) fun _ _ => by rw [zext64_lsl32, toNat_trunc32],
   computesFromBoth_of_updateReg2 rfl (fun _ => rfl) fun _ _ _ => by
     rw [zext64_lsl32, toNat_trunc32, toNat_trunc32, low32_mod_32],
   computesFromDst_of_updateReg rfl (fun _ => rfl) fun _ _ => by rw [zext64_lsr32, toNat_trunc32],
   computesFromBoth_of_updateReg2 rfl (fun _ => rfl) fun _ _ _ => by
     rw [zext64_lsr32, toNat_trunc32, toNat_trunc32, low32_mod_32],
   computesFromDst_of_updateReg rfl (fun _ => rfl) fun _ _ => by rw [zext64_asr32, toNat_trunc32],
   computesFromBoth_of_updateReg2 rfl (fun _ => rfl) fun _ _ _ => by
     rw [zext64_asr32, toNat_trunc32, toNat_trunc32, low32_mod_32]⟩

/-- Settles O29: `mov` is `loadReg` or `copyReg`, which do not read `dst`. -/
theorem move32 : Obligations.Move32 := fun _ _ imm =>
  ⟨writes_of_loadReg rfl (fun _ => rfl) (sext64_eq_wordOf imm),
   computesFromSrc_of_copyReg rfl (fun _ => rfl) fun _ => by rw [sext64_eq_wordOf, toNat_trunc32]⟩

/-- A word with the opcode byte of `be` decodes through its selector (R120). -/
theorem decode_be {strict : Bool} {w : Word} {i : Instr} (hopc : opcField w = 0xDC) (h : decode strict w = .ok i) :
    ∃ dst size, i = .be dst size ∧ immField w = size.selector := by
  obtain ⟨shape, hs, hg⟩ := decode_eq_ok.mp h
  rw [hopc] at hs
  obtain rfl : Shape.byteSwap .be = shape := Option.some.inj hs
  obtain ⟨dst, size, -, hsel, rfl, -⟩ := hg
  exact ⟨dst, size, rfl, (selectorOf_eq_some.mp hsel).symm⟩

/-- Settles O30: `be` is `updateReg` of a byte swap, which reverses the low bytes (`swapped_add`); and the decoder takes
no other selector (`decode_be`). -/
theorem byteSwapReversesLowBytes : Obligations.ByteSwapReversesLowBytes := by
  refine ⟨fun dst =>
    ⟨computesFromDst_of_updateReg rfl (fun _ => rfl) fun _ => byteSwap_swap16,
     computesFromDst_of_updateReg rfl (fun _ => rfl) fun _ => byteSwap_swap32,
     computesFromDst_of_updateReg rfl (fun _ => rfl) fun _ => byteSwap_swap64⟩, fun strict w i hopc h => ?_⟩
  obtain ⟨dst, size, rfl, hsel⟩ := decode_be hopc h
  refine ⟨dst, size, rfl, ?_⟩
  cases size with
  | swap16 => exact .inl ⟨hsel, rfl⟩
  | swap32 => exact .inr (.inl ⟨hsel, rfl⟩)
  | swap64 => exact .inr (.inr ⟨hsel, rfl⟩)

end Sys2Proof.Machine
end

section
/-! PROOFS. Class 7, 64-bit arithmetic and logic (41_alu64.md): the 64-bit word operations (R11) and the widenings of an
immediate (R131) as the numbers they stand for, and each instruction completes with the number its rule gives. -/
namespace Sys2Proof.Machine
open Sys2Proof.Claim

/-! ## Widened immediates and counts (R7, R131) -/

@[simp] theorem toNat_zext64 (imm : Imm) : (zext64 imm).toNat = imm.toNat :=
  BitVec.toNat_setWidth_of_le (by decide)

@[simp] theorem toNat_sext64 (imm : Imm) : (sext64 imm).toNat = sextNat imm := by
  rw [sext64, BitVec.toNat_signExtend, BitVec.toNat_setWidth_of_le (by decide), BitVec.msb_eq_decide, sextNat]
  by_cases hneg : 2 ^ 31 ≤ imm.toNat
  · rw [if_pos (decide_eq_true hneg), if_neg hneg.not_gt]
  · rw [if_neg (mt of_decide_eq_true hneg), if_pos (not_le.mp hneg), Nat.add_zero]

@[simp] theorem toNat_extend64 (e : Ext) (imm : Imm) : (extend64 e imm).toNat = widened e imm := by
  cases e with
  | zext => exact toNat_zext64 imm
  | sext => exact toNat_sext64 imm

@[simp] theorem low32_mod_64 (a : Word) : low32 a % 64 = a.toNat % 64 := Nat.mod_mod_of_dvd _ ⟨2 ^ 26, rfl⟩

/-- The two widenings of an immediate differ only in bits 63..32. -/
theorem widened_mod (e : Ext) (imm : Imm) : widened e imm % 2 ^ 32 = imm.toNat := by
  have hlt := imm.isLt
  cases e with
  | zext => exact Nat.mod_eq_of_lt hlt
  | sext =>
    rw [widened, sextNat]
    split <;> omega

/-! ## 64-bit arithmetic and logic (R132 to R139, R144, R145) -/

section
variable (a b : Word)

theorem ofInt_toNat_word : BitVec.ofInt 64 a.toNat = a := by
  rw [BitVec.ofInt_natCast, BitVec.ofNat_toNat, BitVec.setWidth_eq]

theorem add_eq_wordOf : a + b = wordOf (a.toNat + b.toNat) := by
  rw [wordOf_eq_ofInt, BitVec.ofInt_add, ofInt_toNat_word, ofInt_toNat_word]

theorem sub_eq_wordOf : a - b = wordOf (a.toNat - b.toNat) := by
  rw [wordOf_eq_ofInt, Int.sub_eq_add_neg, BitVec.ofInt_add, BitVec.ofInt_neg, ofInt_toNat_word,
    ofInt_toNat_word, BitVec.sub_eq_add_neg]

theorem or_eq_ofNat : a ||| b = BitVec.ofNat 64 (a.toNat ||| b.toNat) := by
  rw [← BitVec.toNat_or, BitVec.ofNat_toNat, BitVec.setWidth_eq]

theorem and_eq_ofNat : a &&& b = BitVec.ofNat 64 (a.toNat &&& b.toNat) := by
  rw [← BitVec.toNat_and, BitVec.ofNat_toNat, BitVec.setWidth_eq]

theorem xor_eq_ofNat : a ^^^ b = BitVec.ofNat 64 (a.toNat ^^^ b.toNat) := by
  rw [← BitVec.toNat_xor, BitVec.ofNat_toNat, BitVec.setWidth_eq]

/-! ## 64-bit shifts, the count modulo 64 (R140 to R143, R148, R149) -/

variable (k : BitVec 32)

theorem lsl64_eq_wordOf : lsl64 a k = wordOf (a.toNat * 2 ^ (k.toNat % 64)) := by
  have hnat : lsl64 a k = BitVec.ofNat 64 (a.toNat * 2 ^ (k.toNat % 64)) := by
    apply BitVec.eq_of_toNat_eq
    rw [lsl64, BitVec.toNat_shiftLeft, Nat.shiftLeft_eq, BitVec.toNat_ofNat]
  rw [hnat, ← BitVec.ofInt_natCast, wordOf_eq_ofInt]
  norm_cast

theorem lsr64_eq_ofNat : lsr64 a k = BitVec.ofNat 64 (a.toNat / 2 ^ (k.toNat % 64)) := by
  rw [← Nat.shiftRight_eq_div_pow, ← BitVec.toNat_ushiftRight, BitVec.ofNat_toNat, BitVec.setWidth_eq, lsr64]

theorem asr64_eq_wordOf : asr64 a k = wordOf (Int.fdiv (sgn 64 a.toNat) (2 ^ (k.toNat % 64))) := by
  have hint : (asr64 a k).toInt = Int.fdiv (sgn 64 a.toNat) (2 ^ (k.toNat % 64)) := by
    rw [asr64, BitVec.toInt_sshiftRight, Int.shiftRight_eq_div_pow, sgn_toNat (by decide),
      Int.fdiv_eq_ediv_of_nonneg _ (by positivity)]
    norm_cast
  rw [← hint, wordOf_eq_ofInt, BitVec.ofInt_toInt]

end

/-- A widened immediate shifted into bits 63..32 is the same under both switches: its upper half is shifted out
(R150). -/
theorem toNat_extend64_shiftLeft_32 (e : Ext) (imm : Imm) :
    (extend64 e imm <<< 32).toNat = imm.toNat * 2 ^ 32 := by
  calc (extend64 e imm <<< 32).toNat
      = widened e imm * 2 ^ 32 % (2 ^ 32 * 2 ^ 32) := by
        rw [BitVec.toNat_shiftLeft, toNat_extend64, Nat.shiftLeft_eq, ← Nat.pow_add]
    _ = imm.toNat * 2 ^ 32 := by rw [Nat.mul_mod_mul_right, widened_mod]

/-! ## The statements -/

/-- Settles O31: each instruction is `updateReg` or `updateReg2` of a word operation, and the operation is the rule's on
the unsigned readings (`add_eq_wordOf` to `xor_eq_ofNat`), the immediate's being `sextNat` or `widened`. -/
theorem arithmeticAndLogic64 : Obligations.ArithmeticAndLogic64 := fun _ _ _ =>
  ⟨computesFromDst_of_updateReg rfl (fun _ => rfl) fun _ _ => by rw [add_eq_wordOf, toNat_sext64],
   computesFromBoth_of_updateReg2 rfl (fun _ => rfl) fun _ => add_eq_wordOf,
   computesFromDst_of_updateReg rfl (fun _ => rfl) fun _ _ => by rw [sub_eq_wordOf, toNat_sext64],
   computesFromBoth_of_updateReg2 rfl (fun _ => rfl) fun _ => sub_eq_wordOf,
   computesFromDst_of_updateReg rfl (fun _ => rfl) fun _ _ => by rw [or_eq_ofNat, toNat_extend64],
   computesFromBoth_of_updateReg2 rfl (fun _ => rfl) fun _ => or_eq_ofNat,
   computesFromDst_of_updateReg rfl (fun _ => rfl) fun _ _ => by rw [and_eq_ofNat, toNat_extend64],
   computesFromBoth_of_updateReg2 rfl (fun _ => rfl) fun _ => and_eq_ofNat,
   computesFromDst_of_updateReg rfl (fun _ => rfl) fun _ _ => by rw [xor_eq_ofNat, toNat_extend64],
   computesFromBoth_of_updateReg2 rfl (fun _ => rfl) fun _ => xor_eq_ofNat⟩

/-- Settles O32: a count register and its low half, which the shift is given, are the same modulo 64
(`low32_mod_64`). -/
theorem shifts64 : Obligations.Shifts64 := fun _ _ imm =>
  ⟨computesFromDst_of_updateReg rfl (fun _ => rfl) fun _ a => lsl64_eq_wordOf a imm,
   computesFromBoth_of_updateReg2 rfl (fun _ => rfl) fun _ _ _ => by
     rw [lsl64_eq_wordOf, toNat_trunc32, low32_mod_64],
   computesFromDst_of_updateReg rfl (fun _ => rfl) fun _ a => lsr64_eq_ofNat a imm,
   computesFromBoth_of_updateReg2 rfl (fun _ => rfl) fun _ _ _ => by
     rw [lsr64_eq_ofNat, toNat_trunc32, low32_mod_64],
   computesFromDst_of_updateReg rfl (fun _ => rfl) fun _ a => asr64_eq_wordOf a imm,
   computesFromBoth_of_updateReg2 rfl (fun _ => rfl) fun _ _ _ => by
     rw [asr64_eq_wordOf, toNat_trunc32, low32_mod_64]⟩

/-- Settles O33: `mov64` is `loadReg` or `copyReg`, which do not read `dst`; what the switch decides of the immediate of
`hor64` is shifted out (`toNat_extend64_shiftLeft_32`). -/
theorem move64AndHighOr : Obligations.Move64AndHighOr := fun _ _ imm =>
  ⟨writes_of_loadReg rfl (fun _ => rfl) (zext64_eq_ofNat imm),
   computesFromSrc_of_copyReg rfl (fun _ => rfl) fun _ => rfl,
   computesFromDst_of_updateReg rfl (fun _ => rfl) fun _ _ => by rw [or_eq_ofNat, toNat_extend64_shiftLeft_32]⟩

end Sys2Proof.Machine
end

section
/-! PROOFS. Class 6, the products (42_pqr.md R164, R165, R174 to R179): the exact product of the operands' readings, and
each instruction completes with the half of it that its rule gives. -/
namespace Sys2Proof.Machine
open Sys2Proof.Claim

/-! ## Products of words as products of numbers -/

/-- Two factors of at most 64 bits lose nothing in a 128-bit product, so its upper half is that of the exact one. -/
theorem highProduct_eq_upperHalf {w : Nat} (hw : w ≤ 64) (a : Word) (b : BitVec w) :
    highProduct a.toNat b.toNat = upperHalf (a.setWidth 128) (b.setWidth 128) := by
  have hb : b.toNat < 2 ^ 64 := b.isLt.trans_le (Nat.pow_le_pow_right (by decide) hw)
  have hexact : a.toNat * b.toNat < 2 ^ 128 := (Nat.mul_lt_mul'' a.isLt hb).trans_eq (Nat.pow_add 2 64 64).symm
  apply BitVec.eq_of_toNat_eq
  rw [highProduct, upperHalf, BitVec.toNat_ofNat, BitVec.extractLsb'_toNat, BitVec.toNat_mul,
    BitVec.toNat_setWidth_of_le (by decide), BitVec.toNat_setWidth_of_le (by omega), Nat.mod_eq_of_lt hexact,
    Nat.shiftRight_eq_div_pow]

theorem mul_eq_wordOf (a b : Word) : a * b = wordOf (a.toNat * b.toNat) := by
  rw [wordOf_eq_ofInt, BitVec.ofInt_mul, ofInt_toNat_word, ofInt_toNat_word]

/-- The low 32 bits of the product are those of the product of the signed readings. -/
theorem zext64_mul (x y : BitVec 32) : zext64 (x * y) = wordOf32 (sgn 32 x.toNat * sgn 32 y.toNat) := by
  rw [sgn_toNat (by decide), sgn_toNat (by decide), ← zext64_ofInt, BitVec.ofInt_mul, BitVec.ofInt_toInt,
    BitVec.ofInt_toInt]

theorem highProductInt_eq_wordOf (a b : Int) : highProductInt a b = wordOf (Int.fdiv (a * b) (2 ^ 64)) :=
  (wordOf_eq_ofInt _).symm

/-- The product of `shmul64` under both values of `SHMUL64_DST_EXT` (R178). -/
theorem highProductInt_shmulFactor {w : Nat} (hw : 0 < w) (e : Ext) (a : Word) (b : BitVec w) :
    highProductInt (shmulFactor e a) b.toInt =
      match e with
      | .zext => wordOf (Int.fdiv (a.toNat * sgn w b.toNat) (2 ^ 64))
      | .sext => wordOf (Int.fdiv (sgn 64 a.toNat * sgn w b.toNat) (2 ^ 64)) := by
  rw [sgn_toNat hw, highProductInt_eq_wordOf]
  cases e with
  | zext => rfl
  | sext => rw [sgn_toNat (by decide)]; rfl

/-! ## The statements -/

/-- Settles O34: the model's upper half is taken of an exact product and the statement's of a 128-bit one
(`highProduct_eq_upperHalf`); the low products are products modulo a power of two. -/
theorem unsignedHighAndLowProducts : Obligations.UnsignedHighAndLowProducts := fun _ _ imm =>
  ⟨computesFromDst_of_updateReg rfl (fun _ => rfl) fun _ a => highProduct_eq_upperHalf (by decide) a imm,
   computesFromBoth_of_updateReg2 rfl (fun _ => rfl) fun _ => highProduct_eq_upperHalf (by decide),
   computesFromDst_of_updateReg rfl (fun _ => rfl) fun _ _ => by rw [zext64_mul, toNat_trunc32],
   computesFromBoth_of_updateReg2 rfl (fun _ => rfl) fun _ _ _ => by rw [zext64_mul, toNat_trunc32, toNat_trunc32],
   computesFromDst_of_updateReg rfl (fun _ => rfl) fun _ _ => by rw [mul_eq_wordOf, toNat_zext64],
   computesFromBoth_of_updateReg2 rfl (fun _ => rfl) fun _ => mul_eq_wordOf⟩

/-- Settles O35: the first factor is read as the switch says (`highProductInt_shmulFactor`), the second signed. -/
theorem signedHighProduct : Obligations.SignedHighProduct := fun _ _ imm =>
  ⟨computesFromDst_of_updateReg (f := fun s a => highProductInt (shmulFactor s.params.shmul64DstExt a) imm.toInt) rfl
     (fun _ => rfl) fun s a => highProductInt_shmulFactor (by decide) s.params.shmul64DstExt a imm,
   computesFromBoth_of_updateReg2 (f := fun s a b => highProductInt (shmulFactor s.params.shmul64DstExt a) b.toInt) rfl
     (fun _ => rfl) fun s => highProductInt_shmulFactor (by decide) s.params.shmul64DstExt⟩

end Sys2Proof.Machine
end

section
/-! PROOFS. Class 6, the quotients and remainders (42_pqr.md R161, R162, R166 to R173, R180 to R187): what a division
answers, from the numbers to the instruction. -/
namespace Sys2Proof.Machine
open Sys2Proof.Claim

/-! ## The answer of a division -/

/-- `r` is what a division answers: the panic of a zero divisor, the panic of an overflow, or else the value `v`. The
conditions are propositions because the rules write each of them in several readings of the same bits. -/
structure Divides (r : Except DivisionPanic Word) (zero overflow : Prop) (v : Word) : Prop where
  byZero : zero → r = .error .byZero
  overflows : ¬ zero → overflow → r = .error .negativeOverflow
  completes : ¬ zero → ¬ overflow → r = .ok v

theorem Divides.congr {r : Except DivisionPanic Word} {zero zero' overflow overflow' : Prop} {v : Word}
    (h : Divides r zero overflow v) (hzero : zero ↔ zero') (hoverflow : overflow ↔ overflow') :
    Divides r zero' overflow' v :=
  propext hzero ▸ propext hoverflow ▸ h

/-- The divisor is zero where the panic of R161 is answered. -/
theorem Divides.zero_of_error {r : Except DivisionPanic Word} {zero overflow : Prop} {v : Word}
    (h : Divides r zero overflow v) (hr : r = .error .byZero) : zero := by
  by_contra hz
  by_cases ho : overflow
  · cases hr.symm.trans (h.overflows hz ho)
  · cases hr.symm.trans (h.completes hz ho)

/-- The division overflows where the panic of R162 is answered. -/
theorem Divides.overflow_of_error {r : Except DivisionPanic Word} {zero overflow : Prop} {v : Word}
    (h : Divides r zero overflow v) (hr : r = .error .negativeOverflow) : overflow := by
  by_contra ho
  by_cases hz : zero
  · cases hr.symm.trans (h.byZero hz)
  · cases hr.symm.trans (h.completes hz ho)

section
variable (f : Nat → Word) (g : Int → Word) (a d : Nat) (width : Nat) (m n : Int)

theorem divides_unsignedQuotient : Divides ((unsignedQuotient a d).map f) (d = 0) False (f (a / d)) where
  byZero hd := by rw [unsignedQuotient_error.mpr ⟨hd, rfl⟩]; rfl
  overflows _ := False.elim
  completes hd _ := by rw [unsignedQuotient_ok hd]; rfl

theorem divides_unsignedRemainder : Divides ((unsignedRemainder a d).map f) (d = 0) False (f (a % d)) where
  byZero hd := by rw [unsignedRemainder_error.mpr ⟨hd, rfl⟩]; rfl
  overflows _ := False.elim
  completes hd _ := by rw [unsignedRemainder_ok hd]; rfl

theorem divides_signedQuotient : Divides ((signedQuotient width m n).map g) (n = 0)
    (n = -1 ∧ m = -2 ^ (width - 1)) (g (Int.tdiv m n)) where
  byZero hn := by rw [hn, signedQuotient_byZero]; rfl
  overflows _ := by rintro ⟨rfl, rfl⟩; rw [signedQuotient_overflow]; rfl
  completes hn ho := by rw [signedQuotient_ok hn ho]; rfl

theorem divides_signedRemainder : Divides ((signedRemainder width m n).map g) (n = 0)
    (n = -1 ∧ m = -2 ^ (width - 1)) (g (Int.tmod m n)) where
  byZero hn := by rw [hn, signedRemainder_byZero]; rfl
  overflows _ := by rintro ⟨rfl, rfl⟩; rw [signedRemainder_overflow]; rfl
  completes hn ho := by rw [signedRemainder_ok hn ho]; rfl

end

/-- A divisor that is not negative cannot overflow (R162, of `sdiv64 dst, imm` and `srem64 dst, imm`). -/
theorem no_overflow_of_natCast (m : Int) (d width : Nat) : ((d : Int) = -1 ∧ m = -2 ^ (width - 1)) ↔ False :=
  ⟨fun ⟨hd, _⟩ => by omega, False.elim⟩

/-! ## From the answer to the instruction -/

section
variable {opc : BitVec 8} {i : Instr} {dst src : Reg}

/-- An answer of either panic is raised, also where the state cannot advance; a value is written where it can (R264). -/
theorem Divides.finishDivision_eq {r : Except DivisionPanic Word} {zero overflow : Prop} {v : Word}
    (h : Divides r zero overflow v) (dst : Reg) (s : State) :
    (zero → finishDivision r dst s = .next (afterPanic s (.divisionByZero s.pc))) ∧
    (¬ zero → overflow → finishDivision r dst s = .next (afterPanic s (.negativeOverflow s.pc))) ∧
    (¬ zero → ¬ overflow → canAdvance s = true → finishDivision r dst s = .next (afterWrite s dst v)) := by
  refine ⟨fun hz => ?_, fun hz ho => ?_, fun hz ho hadv => ?_⟩
  · rw [h.byZero hz]; rfl
  · rw [h.overflows hz ho]; rfl
  · rw [h.completes hz ho, finishDivision_ok, advance_setReg_afterWrite v hadv]

theorem dividesDst_of_divideReg {f : Word → Except DivisionPanic Word} {d : Int} {overflow : Word → Prop}
    {g : Word → Word} (opcode : i.opcode = opc) (run : ∀ s, exec i s = divideReg f dst s)
    (value : ∀ a, Divides (f a) (d = 0) (overflow a) (g a)) : DividesDst opc i dst d overflow g :=
  ⟨opcode, fun s a ha => by rw [run, divideReg_holds f ha]; exact (value a).finishDivision_eq dst s⟩

theorem dividesBoth_of_divideReg2 {f : Word → Word → Except DivisionPanic Word} {d : Word → Int}
    {overflow : Word → Word → Prop} {g : Word → Word → Word} (opcode : i.opcode = opc)
    (run : ∀ s, exec i s = divideReg2 f dst src s)
    (value : ∀ a b, Divides (f a b) (d b = 0) (overflow a b) (g a b)) : DividesBoth opc i dst src d overflow g :=
  ⟨opcode, fun s a b ha hb => by rw [run, divideReg2_holds f ha hb]; exact (value a b).finishDivision_eq dst s⟩

end

/-! ## The values in the rules' readings -/

/-- A 32-bit number zero-extended is the same number (R160). -/
theorem narrow32_eq_ofNat {n : Nat} (h : n < 2 ^ 32) : narrow32 n = BitVec.ofNat 64 n := by
  rw [narrow32, zext64_eq_ofNat, BitVec.toNat_ofNat, Nat.mod_eq_of_lt h]

section
variable (x y : BitVec 32) (a b : Word) (d : Nat)

theorem divides_unsignedQuotient32 : Divides ((unsignedQuotient x.toNat d).map narrow32) ((d : Int) = 0) False
    (BitVec.ofNat 64 (x.toNat / d)) := by
  rw [← narrow32_eq_ofNat ((Nat.div_le_self _ _).trans_lt x.isLt)]
  exact (divides_unsignedQuotient ..).congr Int.natCast_eq_zero.symm .rfl

theorem divides_unsignedRemainder32 : Divides ((unsignedRemainder x.toNat d).map narrow32) ((d : Int) = 0) False
    (BitVec.ofNat 64 (x.toNat % d)) := by
  rw [← narrow32_eq_ofNat ((Nat.mod_le _ _).trans_lt x.isLt)]
  exact (divides_unsignedRemainder ..).congr Int.natCast_eq_zero.symm .rfl

theorem divides_unsignedQuotient64 : Divides ((unsignedQuotient a.toNat d).map (BitVec.ofNat 64)) ((d : Int) = 0) False
    (BitVec.ofNat 64 (a.toNat / d)) := (divides_unsignedQuotient ..).congr Int.natCast_eq_zero.symm .rfl

theorem divides_unsignedRemainder64 : Divides ((unsignedRemainder a.toNat d).map (BitVec.ofNat 64)) ((d : Int) = 0)
    False (BitVec.ofNat 64 (a.toNat % d)) := (divides_unsignedRemainder ..).congr Int.natCast_eq_zero.symm .rfl

theorem divides_signedQuotient32 : Divides ((signedQuotient 32 x.toInt y.toInt).map narrowInt32)
    (sgn 32 y.toNat = 0) (sgn 32 y.toNat = -1 ∧ sgn 32 x.toNat = -2 ^ 31)
    (wordOf32 (Int.tdiv (sgn 32 x.toNat) (sgn 32 y.toNat))) := by
  rw [sgn_toNat (by decide), sgn_toNat (by decide), ← zext64_ofInt]
  exact divides_signedQuotient ..

theorem divides_signedRemainder32 : Divides ((signedRemainder 32 x.toInt y.toInt).map narrowInt32)
    (sgn 32 y.toNat = 0) (sgn 32 y.toNat = -1 ∧ sgn 32 x.toNat = -2 ^ 31)
    (wordOf32 (Int.tmod (sgn 32 x.toNat) (sgn 32 y.toNat))) := by
  rw [sgn_toNat (by decide), sgn_toNat (by decide), ← zext64_ofInt]
  exact divides_signedRemainder ..

theorem divides_signedQuotient64 : Divides ((signedQuotient 64 a.toInt b.toInt).map (BitVec.ofInt 64))
    (sgn 64 b.toNat = 0) (sgn 64 b.toNat = -1 ∧ sgn 64 a.toNat = -2 ^ 63)
    (wordOf (Int.tdiv (sgn 64 a.toNat) (sgn 64 b.toNat))) := by
  rw [sgn_toNat (by decide), sgn_toNat (by decide), wordOf_eq_ofInt]
  exact divides_signedQuotient ..

theorem divides_signedRemainder64 : Divides ((signedRemainder 64 a.toInt b.toInt).map (BitVec.ofInt 64))
    (sgn 64 b.toNat = 0) (sgn 64 b.toNat = -1 ∧ sgn 64 a.toNat = -2 ^ 63)
    (wordOf (Int.tmod (sgn 64 a.toNat) (sgn 64 b.toNat))) := by
  rw [sgn_toNat (by decide), sgn_toNat (by decide), wordOf_eq_ofInt]
  exact divides_signedRemainder ..

/-- The divisor of `sdiv64 dst, imm` is zero-extended (R182). -/
theorem divides_signedQuotient64_natCast : Divides ((signedQuotient 64 a.toInt d).map (BitVec.ofInt 64))
    ((d : Int) = 0) False (wordOf (Int.tdiv (sgn 64 a.toNat) d)) := by
  rw [sgn_toNat (by decide), wordOf_eq_ofInt]
  exact (divides_signedQuotient ..).congr .rfl (no_overflow_of_natCast ..)

/-- The divisor of `srem64 dst, imm` is zero-extended (R186). -/
theorem divides_signedRemainder64_natCast : Divides ((signedRemainder 64 a.toInt d).map (BitVec.ofInt 64))
    ((d : Int) = 0) False (wordOf (Int.tmod (sgn 64 a.toNat) d)) := by
  rw [sgn_toNat (by decide), wordOf_eq_ofInt]
  exact (divides_signedRemainder ..).congr .rfl (no_overflow_of_natCast ..)

end

end Sys2Proof.Machine

/-! ## The statements -/

namespace Sys2Proof
open Sys2Proof.Machine

/-- Settles O36: the 32-bit quotients and remainders are of the low halves (`toNat_trunc32`) and need no narrowing
(`narrow32_eq_ofNat`). -/
theorem unsignedQuotientAndRemainder : Obligations.UnsignedQuotientAndRemainder := fun _ _ imm =>
  ⟨dividesDst_of_divideReg rfl (fun _ => rfl) fun a =>
     toNat_trunc32 a ▸ divides_unsignedQuotient32 (trunc32 a) imm.toNat,
   dividesBoth_of_divideReg2 rfl (fun _ => rfl) fun a b =>
     toNat_trunc32 a ▸ toNat_trunc32 b ▸ divides_unsignedQuotient32 (trunc32 a) (trunc32 b).toNat,
   dividesDst_of_divideReg rfl (fun _ => rfl) fun a => divides_unsignedQuotient64 a imm.toNat,
   dividesBoth_of_divideReg2 rfl (fun _ => rfl) fun a b => divides_unsignedQuotient64 a b.toNat,
   dividesDst_of_divideReg rfl (fun _ => rfl) fun a =>
     toNat_trunc32 a ▸ divides_unsignedRemainder32 (trunc32 a) imm.toNat,
   dividesBoth_of_divideReg2 rfl (fun _ => rfl) fun a b =>
     toNat_trunc32 a ▸ toNat_trunc32 b ▸ divides_unsignedRemainder32 (trunc32 a) (trunc32 b).toNat,
   dividesDst_of_divideReg rfl (fun _ => rfl) fun a => divides_unsignedRemainder64 a imm.toNat,
   dividesBoth_of_divideReg2 rfl (fun _ => rfl) fun a b => divides_unsignedRemainder64 a b.toNat⟩

/-- Settles O37: the signed readings of the operands are the rule's (`sgn_toNat`), and the zero-extended divisor of
`sdiv64 dst, imm` is never -1 (`no_overflow_of_natCast`). -/
theorem signedQuotient : Obligations.SignedQuotient := fun _ _ imm =>
  ⟨dividesDst_of_divideReg rfl (fun _ => rfl) fun a => toNat_trunc32 a ▸ divides_signedQuotient32 (trunc32 a) imm,
   dividesBoth_of_divideReg2 rfl (fun _ => rfl) fun a b =>
     toNat_trunc32 a ▸ toNat_trunc32 b ▸ divides_signedQuotient32 (trunc32 a) (trunc32 b),
   dividesDst_of_divideReg rfl (fun _ => rfl) fun a => divides_signedQuotient64_natCast a imm.toNat,
   dividesBoth_of_divideReg2 rfl (fun _ => rfl) divides_signedQuotient64⟩

/-- Settles O38: as the quotient, since the remainder answers the same two panics (R162). -/
theorem signedRemainder : Obligations.SignedRemainder := fun _ _ imm =>
  ⟨dividesDst_of_divideReg rfl (fun _ => rfl) fun a => toNat_trunc32 a ▸ divides_signedRemainder32 (trunc32 a) imm,
   dividesBoth_of_divideReg2 rfl (fun _ => rfl) fun a b =>
     toNat_trunc32 a ▸ toNat_trunc32 b ▸ divides_signedRemainder32 (trunc32 a) (trunc32 b),
   dividesDst_of_divideReg rfl (fun _ => rfl) fun a => divides_signedRemainder64_natCast a imm.toNat,
   dividesBoth_of_divideReg2 rfl (fun _ => rfl) divides_signedRemainder64⟩

end Sys2Proof
end

section
/-! PROOFS. The two panics of the divisions are raised by the sixteen forms on the operands of R161 and R162, and by
nothing else. -/
namespace Sys2Proof.Machine
open Sys2Proof.Claim

/-! ## A panic is the instruction's own or that of the advance (R263) -/

section
variable {i : Instr} {s t u : State} {p : Panic}

theorem panic_of_advance_faulted (h : advance s u = .next t) (hu : u.status = .running) (ht : t.status = .faulted p) :
    p = advancePanic s := by
  obtain ⟨-, rfl⟩ | rfl := advance_canAdvance h
  · cases hu.symm.trans ht
  · cases ht; rfl

theorem panic_of_finishDivision_faulted {r : Except DivisionPanic Word} {dst : Reg} (hs : s.status = .running)
    (h : finishDivision r dst s = .next t) (ht : t.status = .faulted p) :
    (∃ q, r = .error q ∧ p = q.panicAt s.pc) ∨ p = advancePanic s := by
  obtain ⟨v, -, h⟩ | ⟨q, hq, rfl⟩ := finishDivision_next h
  · exact .inr (panic_of_advance_faulted h hs ht)
  · cases ht; exact .inl ⟨q, hq, rfl⟩

theorem panic_of_finishStore_faulted {w : Width} {base : Word} {off : Off} {v : Nat} (hs : s.status = .running)
    (h : finishStore w base off v s = .next t) (ht : t.status = .faulted p) :
    (∃ ea n, p = .memoryOutOfBounds s.pc ea n .store ∨ p = .accessViolation s.pc ea n) ∨ p = advancePanic s := by
  obtain ⟨-, -, h⟩ | rfl | rfl := finishStore_next h
  · exact .inr (panic_of_advance_faulted h hs ht)
  · cases ht; exact .inl ⟨_, _, .inl rfl⟩
  · cases ht; exact .inl ⟨_, _, .inr rfl⟩

theorem panic_of_jumpIf_faulted {c : Bool} {off : Off} (hs : s.status = .running) (h : jumpIf c off s = .next t)
    (ht : t.status = .faulted p) : ∃ tgt, p = .targetOutOfBounds s.pc tgt := by
  obtain ⟨f, -, ⟨-, rfl⟩ | ⟨-, -, ⟨-, rfl⟩ | ⟨-, -, rfl⟩ | ⟨-, -, rfl⟩⟩⟩ := jumpIf_next h
  · cases ht; exact ⟨_, rfl⟩
  · cases hs.symm.trans ht
  · cases hs.symm.trans ht
  · cases ht; exact ⟨_, rfl⟩

theorem panic_of_callTo_faulted {target : Option Nat} {reported : Target} (hs : s.status = .running)
    (h : callTo target reported s = .next t) (ht : t.status = .faulted p) :
    p = .stackOverflow s.pc ∨ ∃ tgt, p = .targetOutOfBounds s.pc tgt := by
  obtain ⟨-, rfl⟩ | ⟨-, ⟨-, rfl⟩ | ⟨n, f, -, -, ⟨-, rfl⟩ | ⟨-, rfl⟩⟩⟩ := callTo_next h
  · cases ht; exact .inl rfl
  · cases ht; exact .inr ⟨_, rfl⟩
  · cases ht; exact .inr ⟨_, rfl⟩
  · cases hs.symm.trans ht

/-- An instruction that faults a running state raises an own panic, or that of the advance. -/
theorem ownPanic_or_advancePanic (hs : s.status = .running) (h : exec i s = .next t) (ht : t.status = .faulted p) :
    ownPanic i p = true ∨ p = advancePanic s := by
  cases operation i with
  | update f dst run =>
    obtain ⟨a, -, h⟩ := updateReg_next (run s ▸ h)
    exact .inr (panic_of_advance_faulted h hs ht)
  | update2 f dst src run =>
    obtain ⟨a, b, -, -, h⟩ := updateReg2_next (run s ▸ h)
    exact .inr (panic_of_advance_faulted h hs ht)
  | const v dst run => exact .inr (panic_of_advance_faulted ((run s).symm.trans h) hs ht)
  | copy f dst src run =>
    obtain ⟨b, -, h⟩ := copyReg_next (run s ▸ h)
    exact .inr (panic_of_advance_faulted h hs ht)
  | divide f dst run profile own =>
    obtain ⟨a, -, h⟩ := divideReg_next (run s ▸ h)
    refine (panic_of_finishDivision_faulted hs h ht).imp_left ?_
    rintro ⟨q, hq, rfl⟩
    exact own a q s.pc hq
  | divide2 f dst src run profile own =>
    obtain ⟨a, b, -, -, h⟩ := divideReg2_next (run s ▸ h)
    refine (panic_of_finishDivision_faulted hs h ht).imp_left ?_
    rintro ⟨q, hq, rfl⟩
    exact own a b q s.pc hq
  | load w dst src off run profile own =>
    obtain ⟨base, -, ⟨-, h⟩ | rfl⟩ := load_next (run s ▸ h)
    · exact .inr (panic_of_advance_faulted h hs ht)
    · cases ht; exact .inl (own _ _ _)
  | storeImm w dst off v run profile own =>
    obtain ⟨base, -, h⟩ := storeImm_next (run s ▸ h)
    refine (panic_of_finishStore_faulted hs h ht).imp_left ?_
    rintro ⟨ea, n, rfl | rfl⟩
    · exact (own s.pc ea n).1
    · exact (own s.pc ea n).2
  | storeReg w dst off src run profile own =>
    obtain ⟨base, v, -, -, h⟩ := storeReg_next (run s ▸ h)
    refine (panic_of_finishStore_faulted hs h ht).imp_left ?_
    rintro ⟨ea, n, rfl | rfl⟩
    · exact (own s.pc ea n).1
    · exact (own s.pc ea n).2
  | jump off =>
    obtain ⟨f, -, ⟨-, -, rfl⟩ | ⟨-, rfl⟩⟩ := jump_next h
    · cases hs.symm.trans ht
    · cases ht; exact .inl rfl
  | jumpIfImm c dst imm off run profile own =>
    obtain ⟨a, -, h⟩ := jumpIfImm_next (run s ▸ h)
    obtain ⟨tgt, rfl⟩ := panic_of_jumpIf_faulted hs h ht
    exact .inl (own s.pc tgt)
  | jumpIfReg c dst src off run profile own =>
    obtain ⟨a, b, -, -, h⟩ := jumpIfReg_next (run s ▸ h)
    obtain ⟨tgt, rfl⟩ := panic_of_jumpIf_faulted hs h ht
    exact .inl (own s.pc tgt)
  | call off =>
    obtain rfl | ⟨tgt, rfl⟩ := panic_of_callTo_faulted hs h ht
    · exact .inl rfl
    · exact .inl rfl
  | callx src =>
    obtain ⟨a, -, h⟩ := withReg_next h
    obtain rfl | ⟨tgt, rfl⟩ := panic_of_callTo_faulted hs h ht
    · exact .inl rfl
    · exact .inl rfl
  | exit =>
    obtain ⟨-, rfl⟩ | ⟨fs, f, -, rfl⟩ := returnOrHalt_next h
    · cases ht
    · cases hs.symm.trans ht

end

/-! ## The sixteen forms -/

/-- Only the sixteen forms can raise a panic of a division (R263). An immediate form is given `dst` as its `src`, which
it does not use. -/
theorem divForm_of_ownPanic {i : Instr} {q : DivisionPanic} {pc : Nat} (h : ownPanic i (q.panicAt pc) = true) :
    ∃ (f : DivForm) (dst src : Reg) (imm : Imm), i = f.instr dst src imm := by
  cases i with
  | udiv32Imm dst imm => exact ⟨.udiv32Imm, dst, dst, imm, rfl⟩
  | udiv64Imm dst imm => exact ⟨.udiv64Imm, dst, dst, imm, rfl⟩
  | urem32Imm dst imm => exact ⟨.urem32Imm, dst, dst, imm, rfl⟩
  | urem64Imm dst imm => exact ⟨.urem64Imm, dst, dst, imm, rfl⟩
  | sdiv32Imm dst imm => exact ⟨.sdiv32Imm, dst, dst, imm, rfl⟩
  | sdiv64Imm dst imm => exact ⟨.sdiv64Imm, dst, dst, imm, rfl⟩
  | srem32Imm dst imm => exact ⟨.srem32Imm, dst, dst, imm, rfl⟩
  | srem64Imm dst imm => exact ⟨.srem64Imm, dst, dst, imm, rfl⟩
  | udiv32Reg dst src => exact ⟨.udiv32Reg, dst, src, 0, rfl⟩
  | udiv64Reg dst src => exact ⟨.udiv64Reg, dst, src, 0, rfl⟩
  | urem32Reg dst src => exact ⟨.urem32Reg, dst, src, 0, rfl⟩
  | urem64Reg dst src => exact ⟨.urem64Reg, dst, src, 0, rfl⟩
  | sdiv32Reg dst src => exact ⟨.sdiv32Reg, dst, src, 0, rfl⟩
  | sdiv64Reg dst src => exact ⟨.sdiv64Reg, dst, src, 0, rfl⟩
  | srem32Reg dst src => exact ⟨.srem32Reg, dst, src, 0, rfl⟩
  | srem64Reg dst src => exact ⟨.srem64Reg, dst, src, 0, rfl⟩
  | _ => cases q <;> cases h

/-- A form that answers a next state has read `dst` and, in the register forms, `src`; an immediate form is the same
instruction under `dst` as its unused `src`. -/
theorem operands_of_divForm_next {f : DivForm} {dst src : Reg} {imm : Imm} {s t : State}
    (h : exec (f.instr dst src imm) s = .next t) :
    ∃ (src' : Reg) (a b : Word), f.instr dst src imm = f.instr dst src' imm ∧
      s.reg dst = .holds a ∧ s.reg src' = .holds b := by
  cases f with
  | udiv32Imm | udiv64Imm | urem32Imm | urem64Imm | sdiv32Imm | sdiv64Imm | srem32Imm | srem64Imm =>
    obtain ⟨a, ha, -⟩ := divideReg_next h
    exact ⟨dst, a, a, rfl, ha, ha⟩
  | udiv32Reg | udiv64Reg | urem32Reg | urem64Reg | sdiv32Reg | sdiv64Reg | srem32Reg | srem64Reg =>
    obtain ⟨a, b, ha, hb, -⟩ := divideReg2_next h
    exact ⟨src, a, b, rfl, ha, hb⟩

/-! ## Zero and the overflow, as integers and as bit patterns -/

theorem toInt_eq_zero_iff {w : Nat} (x : BitVec w) : x.toInt = 0 ↔ x.toNat = 0 := by
  rw [← BitVec.toInt_zero (w := w), BitVec.toInt_inj, BitVec.toNat_eq, BitVec.toNat_ofNat, Nat.zero_mod]

theorem overflow32_iff (x y : BitVec 32) :
    (y.toInt = -1 ∧ x.toInt = -2 ^ 31) ↔ x.toNat = 0x80000000 ∧ y = 0xFFFFFFFF := by
  rw [and_comm]
  exact and_congr ((BitVec.toInt_inj (y := 0x80000000)).trans BitVec.toNat_eq) (BitVec.toInt_inj (y := 0xFFFFFFFF))

theorem overflow64_iff (a b : Word) :
    (b.toInt = -1 ∧ a.toInt = -2 ^ 63) ↔ a = 0x8000000000000000 ∧ b = 0xFFFFFFFFFFFFFFFF := by
  rw [and_comm]
  exact and_congr (BitVec.toInt_inj (y := 0x8000000000000000)) (BitVec.toInt_inj (y := 0xFFFFFFFFFFFFFFFF))

/-- Each form finishes a division whose divisor is zero, and which overflows, exactly where R161 and R162 say. -/
theorem exec_divForm (f : DivForm) (dst src : Reg) (imm : Imm) {s : State} {a b : Word} (ha : s.reg dst = .holds a)
    (hb : s.reg src = .holds b) :
    ∃ r v, exec (f.instr dst src imm) s = finishDivision r dst s ∧
      Divides r (f.divisor b imm = 0) (f.overflows a b imm) v := by
  have huzero32 : (trunc32 b).toNat = 0 ↔ low32 b = 0 := by rw [toNat_trunc32]
  have hzero32 : (trunc32 b).toInt = 0 ↔ low32 b = 0 := (toInt_eq_zero_iff _).trans huzero32
  have hover32 : ((trunc32 b).toInt = -1 ∧ (trunc32 a).toInt = -2 ^ 31) ↔
      low32 a = 0x80000000 ∧ low32 b = 0xFFFFFFFF := by
    rw [overflow32_iff, BitVec.toNat_eq, toNat_trunc32, toNat_trunc32]; rfl
  have hover32Imm : (imm.toInt = -1 ∧ (trunc32 a).toInt = -2 ^ 31) ↔ low32 a = 0x80000000 ∧ imm = 0xFFFFFFFF :=
    toNat_trunc32 a ▸ overflow32_iff (trunc32 a) imm
  have hover64 := overflow64_iff a b
  have hnever := no_overflow_of_natCast a.toInt imm.toNat 64
  cases f with
  | udiv32Imm | udiv64Imm => exact ⟨_, _, divideReg_holds _ ha, divides_unsignedQuotient ..⟩
  | urem32Imm | urem64Imm => exact ⟨_, _, divideReg_holds _ ha, divides_unsignedRemainder ..⟩
  | udiv64Reg => exact ⟨_, _, divideReg2_holds _ ha hb, divides_unsignedQuotient ..⟩
  | urem64Reg => exact ⟨_, _, divideReg2_holds _ ha hb, divides_unsignedRemainder ..⟩
  | udiv32Reg => exact ⟨_, _, divideReg2_holds _ ha hb, (divides_unsignedQuotient ..).congr huzero32 .rfl⟩
  | urem32Reg => exact ⟨_, _, divideReg2_holds _ ha hb, (divides_unsignedRemainder ..).congr huzero32 .rfl⟩
  | sdiv32Imm =>
    exact ⟨_, _, divideReg_holds _ ha, (divides_signedQuotient ..).congr (toInt_eq_zero_iff imm) hover32Imm⟩
  | srem32Imm =>
    exact ⟨_, _, divideReg_holds _ ha, (divides_signedRemainder ..).congr (toInt_eq_zero_iff imm) hover32Imm⟩
  | sdiv32Reg => exact ⟨_, _, divideReg2_holds _ ha hb, (divides_signedQuotient ..).congr hzero32 hover32⟩
  | srem32Reg => exact ⟨_, _, divideReg2_holds _ ha hb, (divides_signedRemainder ..).congr hzero32 hover32⟩
  | sdiv64Imm =>
    exact ⟨_, _, divideReg_holds _ ha, (divides_signedQuotient ..).congr Int.natCast_eq_zero hnever⟩
  | srem64Imm =>
    exact ⟨_, _, divideReg_holds _ ha, (divides_signedRemainder ..).congr Int.natCast_eq_zero hnever⟩
  | sdiv64Reg =>
    exact ⟨_, _, divideReg2_holds _ ha hb, (divides_signedQuotient ..).congr (toInt_eq_zero_iff b) hover64⟩
  | srem64Reg =>
    exact ⟨_, _, divideReg2_holds _ ha hb, (divides_signedRemainder ..).congr (toInt_eq_zero_iff b) hover64⟩

/-- A divisor of -1 is not zero. -/
theorem divisor_ne_zero_of_overflows {f : DivForm} {a b : Word} {imm : Imm} (h : f.overflows a b imm) :
    f.divisor b imm ≠ 0 := by
  cases f with
  | sdiv32Imm | srem32Imm =>
    obtain ⟨-, himm⟩ := h
    exact ne_of_eq_of_ne (congrArg BitVec.toNat himm) (by decide)
  | sdiv64Reg | srem64Reg =>
    obtain ⟨-, hb⟩ := h
    exact ne_of_eq_of_ne (congrArg BitVec.toNat hb) (by decide)
  | sdiv32Reg | srem32Reg =>
    obtain ⟨-, hb⟩ := h
    exact ne_of_eq_of_ne hb (by decide)
  | sdiv64Imm | srem64Imm | udiv32Imm | udiv64Imm | urem32Imm | urem64Imm | udiv32Reg | udiv64Reg | urem32Reg
  | urem64Reg => exact h.elim

theorem panicAt_injective {q q' : DivisionPanic} {m n : Nat} (h : q.panicAt m = q'.panicAt n) : q = q' ∧ m = n := by
  cases q <;> cases q' <;> cases h <;> exact ⟨rfl, rfl⟩

/-- An instruction that ends in the panic of a division is one of the sixteen forms, with its operands written and its
answer that panic. -/
theorem divForm_of_faulted {i : Instr} {s t : State} (q : DivisionPanic) {n : Nat} (hs : s.status = .running)
    (h : exec i s = .next t) (ht : t.status = .faulted (q.panicAt n)) :
    n = s.pc ∧ ∃ (f : DivForm) (dst src : Reg) (imm : Imm) (a b v : Word), i = f.instr dst src imm ∧
      s.reg dst = .holds a ∧ s.reg src = .holds b ∧
      Divides (.error q) (f.divisor b imm = 0) (f.overflows a b imm) v := by
  have hadv : q.panicAt n ≠ advancePanic s := by cases q <;> exact nofun
  obtain ⟨f, dst, src, imm, rfl⟩ := divForm_of_ownPanic ((ownPanic_or_advancePanic hs h ht).resolve_right hadv)
  obtain ⟨src', a, b, hi, ha, hb⟩ := operands_of_divForm_next h
  obtain ⟨r, v, hrun, hr⟩ := exec_divForm f dst src' imm ha hb
  rw [hi, hrun] at h
  obtain ⟨q', rfl, hq'⟩ := (panic_of_finishDivision_faulted hs h ht).resolve_right hadv
  obtain ⟨rfl, rfl⟩ := panicAt_injective hq'
  exact ⟨rfl, f, dst, src', imm, a, b, v, hi, ha, hb, hr⟩

/-! ## The statements -/

/-- Settles O39: `exec_divForm` one way; the other way the panic is the instruction's own, so it is one of the sixteen
(`divForm_of_faulted`). -/
theorem divisionByZeroExactly : Obligations.DivisionByZeroExactly := by
  refine ⟨fun f dst src imm s a b ha hb hd => ?_, fun i s t n hs h ht => ?_⟩
  · obtain ⟨r, v, hrun, hr⟩ := exec_divForm f dst src imm ha hb
    rw [hrun, hr.byZero hd]; rfl
  · obtain ⟨hn, f, dst, src, imm, a, b, v, hi, -, hb, hr⟩ := divForm_of_faulted .byZero hs h ht
    exact ⟨hn, f, dst, src, imm, b, hi, hb, hr.zero_of_error rfl⟩

/-- Settles O40: as O39, with an overflowing divisor not zero (`divisor_ne_zero_of_overflows`). -/
theorem negativeOverflowExactly : Obligations.NegativeOverflowExactly := by
  refine ⟨fun f dst src imm s a b ha hb ho => ?_, fun i s t n hs h ht => ?_,
    fun _ _ _ _ => divisor_ne_zero_of_overflows⟩
  · obtain ⟨r, v, hrun, hr⟩ := exec_divForm f dst src imm ha hb
    rw [hrun, hr.overflows (divisor_ne_zero_of_overflows ho) ho]; rfl
  · obtain ⟨hn, f, dst, src, imm, a, b, v, hi, ha, hb, hr⟩ := divForm_of_faulted .negativeOverflow hs h ht
    exact ⟨hn, f, dst, src, imm, a, b, hi, ha, hb, hr.overflow_of_error rfl⟩

end Sys2Proof.Machine
end

section
/-! PROOFS. Quotient and remainder of one division (42_pqr.md R188): what the eight pairs of instructions write, read
back as numbers, is the quotient toward zero and its remainder. -/
namespace Sys2Proof.Machine
open Sys2Proof.Claim

/-! ## Results read back -/

theorem low32_zext64 (x : BitVec 32) : low32 (zext64 x) = x.toNat := by
  rw [low32, toNat_zext64, Nat.mod_eq_of_lt x.isLt]

/-- A 32-bit pattern in a register is read back as the signed number it was written for. -/
theorem sgn_low32_wordOf32 (x : BitVec 32) : sgn 32 (low32 (wordOf32 x.toInt)) = x.toInt := by
  rw [← zext64_ofInt, BitVec.ofInt_toInt, low32_zext64, sgn_toNat (by decide)]

theorem sgn_wordOf (a : Word) : sgn 64 (wordOf a.toInt).toNat = a.toInt := by
  rw [wordOf_eq_ofInt, BitVec.ofInt_toInt, sgn_toNat (by decide)]

/-- Without the overflow of R162, the quotient toward zero is a signed number of the same width. -/
theorem toInt_sdiv_of_no_overflow {w : Nat} (hw : 0 < w) (x y : BitVec w)
    (ho : ¬ (y.toInt = -1 ∧ x.toInt = -2 ^ (w - 1))) : (x.sdiv y).toInt = x.toInt.tdiv y.toInt := by
  refine BitVec.toInt_sdiv_of_ne_or_ne x y (not_and_or.mp fun ⟨hx, hy⟩ => ho ⟨?_, ?_⟩)
  · rw [hy, BitVec.neg_one_eq_allOnes, BitVec.toInt_allOnes, if_pos hw]
  · rw [hx, BitVec.toInt_intMin_of_pos hw]

section
variable (x y : BitVec 32) (a b : Word)

theorem sgn_low32_wordOf32_tdiv (ho : ¬ (sgn 32 y.toNat = -1 ∧ sgn 32 x.toNat = -2 ^ 31)) :
    sgn 32 (low32 (wordOf32 (Int.tdiv (sgn 32 x.toNat) (sgn 32 y.toNat)))) =
      Int.tdiv (sgn 32 x.toNat) (sgn 32 y.toNat) := by
  rw [sgn_toNat (by decide) x, sgn_toNat (by decide) y] at ho ⊢
  rw [← toInt_sdiv_of_no_overflow (by decide) x y ho, sgn_low32_wordOf32]

theorem sgn_low32_wordOf32_tmod : sgn 32 (low32 (wordOf32 (Int.tmod (sgn 32 x.toNat) (sgn 32 y.toNat)))) =
    Int.tmod (sgn 32 x.toNat) (sgn 32 y.toNat) := by
  rw [sgn_toNat (by decide) x, sgn_toNat (by decide) y, ← BitVec.toInt_srem, sgn_low32_wordOf32]

theorem sgn_wordOf_tdiv (ho : ¬ (sgn 64 b.toNat = -1 ∧ sgn 64 a.toNat = -2 ^ 63)) :
    sgn 64 (wordOf (Int.tdiv (sgn 64 a.toNat) (sgn 64 b.toNat))).toNat =
      Int.tdiv (sgn 64 a.toNat) (sgn 64 b.toNat) := by
  rw [sgn_toNat (by decide) a, sgn_toNat (by decide) b] at ho ⊢
  rw [← toInt_sdiv_of_no_overflow (by decide) a b ho, sgn_wordOf]

theorem sgn_wordOf_tmod : sgn 64 (wordOf (Int.tmod (sgn 64 a.toNat) (sgn 64 b.toNat))).toNat =
    Int.tmod (sgn 64 a.toNat) (sgn 64 b.toNat) := by
  rw [sgn_toNat (by decide) a, sgn_toNat (by decide) b, ← BitVec.toInt_srem, sgn_wordOf]

/-- A zero-extended immediate is its own signed reading. -/
theorem sgn_zext64 (imm : Imm) : sgn 64 (zext64 imm).toNat = imm.toNat := by
  rw [toNat_zext64, sgn, if_pos (imm.isLt.trans (by decide))]

end

/-! ## The law of a division -/

/-- The remainder of a division toward zero is zero or has the sign of the dividend (R12). -/
theorem tmod_eq_zero_or_neg_iff (a d : Int) : a.tmod d = 0 ∨ (a.tmod d < 0 ↔ a < 0) := by
  have hsign := Int.sign_tmod a d
  split_ifs at hsign with hdvd
  · exact .inl (Int.sign_eq_zero_iff_zero.mp hsign)
  · exact .inr (by rw [← Int.sign_eq_neg_one_iff_neg, hsign, Int.sign_eq_neg_one_iff_neg])

/-- `i` writes `v` to `dst` in the state `s`, if that can advance, unless it panics on the divisor `d` or overflows. -/
def Completes (i : Instr) (s : State) (dst : Reg) (d : Int) (overflow : Prop) (v : Word) : Prop :=
  d ≠ 0 → ¬ overflow → canAdvance s = true → exec i s = .next (afterWrite s dst v)

section
variable {i quot rem : Instr} {opc : BitVec 8} {dst src : Reg} {s : State}

theorem completes_of_dividesDst {d : Int} {overflow : Word → Prop} {f : Word → Word} {a : Word}
    (h : DividesDst opc i dst d overflow f) (ha : s.reg dst = .holds a) :
    Completes i s dst d (overflow a) (f a) := by
  obtain ⟨-, hrun⟩ := h
  obtain ⟨-, -, hvalue⟩ := hrun s a ha
  exact hvalue

theorem completes_of_dividesBoth {d : Word → Int} {overflow : Word → Word → Prop} {f : Word → Word → Word} {a b : Word}
    (h : DividesBoth opc i dst src d overflow f) (ha : s.reg dst = .holds a) (hb : s.reg src = .holds b) :
    Completes i s dst (d b) (overflow a b) (f a b) := by
  obtain ⟨-, hrun⟩ := h
  obtain ⟨-, -, hvalue⟩ := hrun s a b ha hb
  exact hvalue

/-- Two instructions that write a quotient toward zero and its remainder belong together. -/
theorem Completes.belongTogether {width : Nat} {a d : Int} {overflow : Prop} {val : Word → Int} {q r : Word}
    (hquot : Completes quot s dst d overflow q) (hrem : Completes rem s dst d overflow r)
    (hover : overflow → d = -1 ∧ a = -2 ^ (width - 1)) (hq : ¬ overflow → val q = a.tdiv d) (hr : val r = a.tmod d) :
    BelongTogether width quot rem dst s a d val := by
  intro hadv hd hno
  have ho : ¬ overflow := mt hover hno
  refine ⟨q, r, hquot hd ho hadv, hrem hd ho hadv, ?_, ?_, ?_⟩
  · rw [hq ho, hr, Int.mul_tdiv_add_tmod]
  · rw [hr, Int.natAbs_tmod]
    exact Nat.mod_lt _ (Int.natAbs_pos.mpr hd)
  · rw [hr]
    exact tmod_eq_zero_or_neg_iff a d

theorem Completes.belongTogether_unsigned {width n d : Nat}
    (hquot : Completes quot s dst d False (BitVec.ofNat 64 (n / d)))
    (hrem : Completes rem s dst d False (BitVec.ofNat 64 (n % d))) (hn : n < 2 ^ 64) :
    BelongTogether width quot rem dst s n d (fun v => v.toNat) := by
  refine hquot.belongTogether hrem False.elim (fun _ => ?_) ?_
  · rw [BitVec.toNat_ofNat, Nat.mod_eq_of_lt ((Nat.div_le_self n d).trans_lt hn), Int.ofNat_tdiv]
  · rw [BitVec.toNat_ofNat, Nat.mod_eq_of_lt ((Nat.mod_le n d).trans_lt hn), Int.ofNat_tmod]

end

/-- Settles O41: each pair completes by O36, O37 and O38, and what it writes reads back as the quotient toward zero and
its remainder. -/
theorem quotientAndRemainderBelongTogether : Obligations.QuotientAndRemainderBelongTogether := by
  intro dst src imm s a b ha hb
  obtain ⟨udiv32Imm, udiv32Reg, udiv64Imm, udiv64Reg, urem32Imm, urem32Reg, urem64Imm, urem64Reg⟩ :=
    unsignedQuotientAndRemainder dst src imm
  obtain ⟨sdiv32Imm, sdiv32Reg, sdiv64Imm, sdiv64Reg⟩ := Sys2Proof.signedQuotient dst src imm
  obtain ⟨srem32Imm, srem32Reg, srem64Imm, srem64Reg⟩ := Sys2Proof.signedRemainder dst src imm
  have hlow : low32 a < 2 ^ 64 := (Nat.mod_le _ _).trans_lt a.isLt
  have hdst {opc i d overflow f} (h : DividesDst opc i dst d overflow f) := completes_of_dividesDst h ha
  have hboth {opc i d overflow f} (h : DividesBoth opc i dst src d overflow f) := completes_of_dividesBoth h ha hb
  refine ⟨(hdst udiv32Imm).belongTogether_unsigned (hdst urem32Imm) hlow,
    (hboth udiv32Reg).belongTogether_unsigned (hboth urem32Reg) hlow,
    (hdst udiv64Imm).belongTogether_unsigned (hdst urem64Imm) a.isLt,
    (hboth udiv64Reg).belongTogether_unsigned (hboth urem64Reg) a.isLt,
    (hdst sdiv32Imm).belongTogether (hdst srem32Imm) id ?_ ?_,
    (hboth sdiv32Reg).belongTogether (hboth srem32Reg) id ?_ ?_,
    (hdst sdiv64Imm).belongTogether (hdst srem64Imm) False.elim ?_ ?_,
    (hboth sdiv64Reg).belongTogether (hboth srem64Reg) id (sgn_wordOf_tdiv a b) (sgn_wordOf_tmod a b)⟩
  · exact toNat_trunc32 a ▸ sgn_low32_wordOf32_tdiv (trunc32 a) imm
  · exact toNat_trunc32 a ▸ sgn_low32_wordOf32_tmod (trunc32 a) imm
  · exact toNat_trunc32 a ▸ toNat_trunc32 b ▸ sgn_low32_wordOf32_tdiv (trunc32 a) (trunc32 b)
  · exact toNat_trunc32 a ▸ toNat_trunc32 b ▸ sgn_low32_wordOf32_tmod (trunc32 a) (trunc32 b)
  · rw [← sgn_zext64]
    exact fun _ => sgn_wordOf_tdiv a (zext64 imm) (by rw [sgn_zext64]; omega)
  · rw [← sgn_zext64]
    exact sgn_wordOf_tmod a (zext64 imm)

end Sys2Proof.Machine
end

section
/-! PROOFS. Loads and stores (43_memory_ops.md): the effective address, each of the twelve instructions as the shared
operation on its operands, and what a store leaves for a load and for everything else. -/
namespace Sys2Proof.Machine
open Sys2Proof.Claim

/-! ## The effective address (R201) -/

theorem effectiveAddress_eq_wordOf (base : Word) (off : Off) :
    effectiveAddress base off = wordOf (base.toNat + sgn 16 off.toNat) := by
  rw [wordOf_eq_ofInt, BitVec.ofInt_add, sgn_toNat (by decide), BitVec.ofInt_natCast, BitVec.ofNat_toNat,
    BitVec.setWidth_eq]
  rfl

/-- An access that runs past the top of the address space fails the test of its addresses under every map (R46). -/
theorem accessible_of_past_top {memMap : List Region} {a n : Nat} (h : 2 ^ 64 < a + n) :
    accessible memMap a n = false :=
  (accessible_eq_false_iff _ _ _).mpr fun ⟨htop, _⟩ => absurd h (Nat.not_lt.mpr htop)

/-- Settles O42: the sum of bit vectors is the sum of their readings modulo `2^64`, and an access past the top fails the
test that the read and the write make first. -/
theorem effectiveAddressWraps : Obligations.EffectiveAddressWraps :=
  ⟨effectiveAddress_eq_wordOf, fun _ _ _ v h =>
    ⟨memRead_error (accessible_of_past_top h), memWrite_outOfBounds v (accessible_of_past_top h)⟩⟩

/-! ## The twelve instructions as shared operations -/

/-- The value that the store of an immediate cuts to its width: `stdw` alone widens as `STDW_IMM_EXT` says (R207 to
R210). -/
def storedImm (e : Ext) (imm : Imm) : Width → Word
  | .byte | .half | .word => zext64 imm
  | .double => extend64 e imm

section
variable (w : Width) (dst src : Reg) (off : Off) (imm : Imm) (s : State)

theorem exec_loadOf : exec (loadOf w dst src off) s = load w dst src off s := by
  cases w with
  | byte | half | word | double => rfl

theorem exec_storeImmOf :
    exec (storeImmOf w dst off imm) s = storeImm w dst off (storedImm s.params.stdwImmExt imm w) s := by
  cases w with
  | byte | half | word | double => rfl

theorem exec_storeRegOf : exec (storeRegOf w dst off src) s = storeReg w dst off src s := by
  cases w with
  | byte | half | word | double => rfl

end

/-- A narrow store of an immediate does not look at the switch. -/
theorem toNat_storedImm_narrow {w : Width} (hw : w ≠ .double) (e : Ext) (imm : Imm) :
    (storedImm e imm w).toNat = imm.toNat := by
  cases w with
  | byte | half | word => exact toNat_zext64 imm
  | double => exact absurd rfl hw

theorem toNat_storedImm_double (e : Ext) (imm : Imm) : (storedImm e imm .double).toNat = widened e imm :=
  toNat_extend64 e imm

/-! ## What a load does -/

/-- Settles O45: all four are `load`, whose test is `AllMapped` and whose number is the sum of the bytes. -/
theorem loadsZeroExtend : Obligations.LoadsZeroExtend := by
  refine fun dst src off => ⟨rfl, rfl, rfl, rfl, fun w s base ea hbase hea => ?_⟩
  obtain rfl : ea = effectiveAddress base off := hea.trans (effectiveAddress_eq_wordOf base off).symm
  rw [exec_loadOf]
  refine ⟨fun hmap hadv => ?completes, fun hmap => ?outOfBounds⟩
  case completes =>
    rw [load_accessible hbase ((accessible_iff_allMapped _ _ _).mpr hmap), advance_setReg_afterWrite _ hadv,
      readBytes_eq_littleEndian]
  case outOfBounds => exact load_outOfBounds hbase ((accessible_eq_false_iff _ _ _).mpr hmap)

/-! ## What a store does -/

/-- What a store leaves when it completes: the written bytes and `pc`, nothing else. -/
abbrev storedAt (s : State) (ea : Word) (w : Width) (v : Nat) : State :=
  { s with mem := writeBytes s.mem ea.toNat v w.bytes, pc := s.pc + 1 }

section
variable {i : Instr} {w : Width} {base : Word} {off : Off} {v : Nat} {s t : State}

/-- An instruction that ends in `finishStore` raises the two panics in their order (R48), or leaves the bytes (R200). -/
theorem storesAt_of_finishStore (run : exec i s = finishStore w base off v s) :
    StoresAt i s w (effectiveAddress base off) v := by
  rw [StoresAt, run]
  refine ⟨fun hmap => ?outOfBounds, fun hmap hro => ?violation, fun hmap hrw hadv hwf => ?written⟩
  case outOfBounds => exact finishStore_outOfBounds v ((accessible_eq_false_iff _ _ _).mpr hmap)
  case violation =>
    exact finishStore_violation v ((accessible_iff_allMapped _ _ _).mpr hmap)
      ((touchesReadOnly_iff_inReadOnly _ _ _).mpr hro)
  case written =>
    refine ⟨_, ?_, stored_writeBytes hwf _ v _, wf_writeBytes hwf _ v _⟩
    rw [finishStore_ok v ((accessible_iff_allMapped _ _ _).mpr hmap) ((touchesReadOnly_eq_false_iff _ _ _).mpr hrw),
      advance_of_canAdvance _ hadv]

/-- The end of a store completes over accessible bytes, or it panics and leaves the rest of the state alone. -/
theorem finishStore_completes_or_panics (h : finishStore w base off v s = .next t) :
    (accessible s.params.memMap (effectiveAddress base off).toNat w.bytes = true ∧
      t = storedAt s (effectiveAddress base off) w v) ∨ ∃ p, t = panicked s p := by
  obtain ⟨hacc, -, h⟩ | rfl | rfl := finishStore_next h
  · obtain ⟨-, rfl⟩ | rfl := advance_canAdvance h
    · exact .inl ⟨hacc, rfl⟩
    · exact .inr ⟨_, rfl⟩
  · exact .inr ⟨_, rfl⟩
  · exact .inr ⟨_, rfl⟩

/-- All eight stores read their base from `dst` and end in `finishStore` there. -/
theorem store_next {dst src : Reg} {imm : Imm} (hi : i = storeImmOf w dst off imm ∨ i = storeRegOf w dst off src)
    (h : exec i s = .next t) : ∃ base v, s.reg dst = .holds base ∧ finishStore w base off v s = .next t := by
  obtain rfl | rfl := hi
  · obtain ⟨base, hbase, h⟩ := storeImm_next (exec_storeImmOf .. ▸ h)
    exact ⟨base, _, hbase, h⟩
  · obtain ⟨base, v, hbase, -, h⟩ := storeReg_next (exec_storeRegOf .. ▸ h)
    exact ⟨base, _, hbase, h⟩

end

/-- Settles O46: all four are `storeImm`, which ends in `finishStore`, and the stored value is the immediate, widened by
the switch in `stdw` alone. -/
theorem storesOfAnImmediate : Obligations.StoresOfAnImmediate := by
  refine fun dst off imm => ⟨rfl, rfl, rfl, rfl, fun s base ea hbase hea => ?_⟩
  obtain rfl : ea = effectiveAddress base off := hea.trans (effectiveAddress_eq_wordOf base off).symm
  have hstores (w : Width) : StoresAt (storeImmOf w dst off imm) s w (effectiveAddress base off)
      (storedImm s.params.stdwImmExt imm w).toNat :=
    storesAt_of_finishStore ((exec_storeImmOf w dst off imm s).trans (storeImm_holds _ hbase))
  refine ⟨fun w hw => ?narrow, ?double⟩
  case narrow => exact toNat_storedImm_narrow hw s.params.stdwImmExt imm ▸ hstores w
  case double => exact toNat_storedImm_double s.params.stdwImmExt imm ▸ hstores .double

/-- Settles O47: all four are `storeReg`, which ends in `finishStore` with the value of `src`. -/
theorem storesOfARegister : Obligations.StoresOfARegister := by
  refine fun dst src off => ⟨rfl, rfl, rfl, rfl, fun w s base ea v hbase hv hea => ?_⟩
  obtain rfl : ea = effectiveAddress base off := hea.trans (effectiveAddress_eq_wordOf base off).symm
  exact storesAt_of_finishStore ((exec_storeRegOf w dst src off s).trans (storeReg_holds hbase hv))

/-! ## What a store leaves -/

/-- Settles O49: a store that does not panic leaves base and map as they were, so the load passes the same test at the
same address and reads back what was written (`readBytes_writeBytes`). -/
theorem storeThenLoadReturnsTheLowBytes : Obligations.StoreThenLoadReturnsTheLowBytes := by
  intro w dst src rd off s t v hwf _ hv h hrun hadv
  obtain ⟨base, v', hbase, hv', h⟩ := storeReg_next (exec_storeRegOf w dst src off s ▸ h)
  obtain rfl : v = v' := RegCell.holds.inj (hv.symm.trans hv')
  obtain ⟨hacc, rfl⟩ | ⟨p, rfl⟩ := finishStore_completes_or_panics h
  · have hload := load_accessible (s := storedAt s (effectiveAddress base off) w v.toNat) (dst := rd) hbase hacc
    rw [exec_loadOf, hload, advance_setReg_afterWrite _ hadv, readBytes_writeBytes hwf]
  · cases hrun

/-- Settles O58: a store that completes writes its own bytes and `pc`, and one that panics writes the status alone. -/
theorem storesFrame : Obligations.StoresFrame := by
  intro w dst src off imm s t i hi h
  obtain ⟨base, v, hbase, h⟩ := store_next hi h
  obtain ⟨-, rfl⟩ | ⟨p, rfl⟩ := finishStore_completes_or_panics h
  · refine ⟨fun _ => rfl, rfl, rfl, fun base' hbase' a ha => ?_, .inl rfl⟩
    obtain rfl : base = base' := RegCell.holds.inj (hbase.symm.trans hbase')
    exact readByte_writeBytes_outside s.mem _ v w.bytes ha
  · exact ⟨fun _ => rfl, rfl, rfl, fun _ _ _ _ => rfl, .inr ⟨p, rfl, rfl⟩⟩

end Sys2Proof.Machine
end

section
/-! PROOFS. Jumps, calls and return (44_control_flow.md): what each of the shared operations does in every case, the 22
conditional jumps as the one template on their conditions, and what a transfer of control keeps. -/
namespace Sys2Proof.Machine
open Sys2Proof.Claim

/-! ## Jumps by their cases (R222, R223) -/

/-- The target of R221 is the slot that the jumps and `call` compute. -/
theorem target_eq_targetSlot (s : State) (off : Off) : target s off = targetSlot s.pc off := by
  rw [target, targetSlot, sgn_toNat (by decide)]

section
variable {s : State} {f : FnRange} {off : Off}

theorem jump_inside (hf : fnAt s.params s.pc = some f) (h1 : (f.start : Int) ≤ targetSlot s.pc off)
    (h2 : targetSlot s.pc off < f.stop) : jump off s = .next { s with pc := (targetSlot s.pc off).toNat } := by
  rw [jump, withFn_some hf]
  exact if_neg (by omega)

theorem jump_outside (hf : fnAt s.params s.pc = some f)
    (h : targetSlot s.pc off < f.start ∨ (f.stop : Int) ≤ targetSlot s.pc off) :
    jump off s = .next (panicked s (jumpPanic s off)) := by
  rw [jump, withFn_some hf]
  exact if_pos h

/-- The target is tested whether or not the condition holds. -/
theorem jumpIf_outside (c : Bool) (hf : fnAt s.params s.pc = some f)
    (h : targetSlot s.pc off < f.start ∨ (f.stop : Int) ≤ targetSlot s.pc off) :
    jumpIf c off s = .next (panicked s (jumpPanic s off)) := by
  rw [jumpIf, withFn_some hf]
  exact if_pos h

/-- A conditional jump that is not taken in the last slot of its function runs off it. -/
theorem jumpIf_notTaken_last (hf : fnAt s.params s.pc = some f) (h1 : (f.start : Int) ≤ targetSlot s.pc off)
    (h2 : targetSlot s.pc off < f.stop) (h3 : f.stop ≤ s.pc + 1) :
    jumpIf false off s = .next (panicked s (advancePanic s)) := by
  rw [jumpIf, withFn_some hf]
  exact (if_neg (by omega)).trans (if_pos h3)

/-- An instruction that is the conditional jump on the outcome `c` follows the template on what `c` decides. -/
theorem jumpTemplate_of_jumpIf {i : Instr} {c : Bool} {taken : Prop} (run : exec i s = jumpIf c off s)
    (hc : c = true ↔ taken) (hf : fnAt s.params s.pc = some f) : JumpTemplate i s f off taken := by
  rw [JumpTemplate, run, target_eq_targetSlot]
  have hfalse (hn : ¬ taken) : c = false := Bool.eq_false_iff.mpr (mt hc.mp hn)
  refine ⟨jumpIf_outside c hf, fun h1 h2 => ⟨fun ht => ?jumps, fun hn h3 => ?advances, fun hn h3 => ?leaves⟩⟩
  case jumps => exact hc.mpr ht ▸ jumpIf_taken hf h1 h2
  case advances => exact hfalse hn ▸ jumpIf_notTaken hf h1 h2 h3
  case leaves => exact hfalse hn ▸ jumpIf_notTaken_last hf h1 h2 h3

end

/-- Settles O50: `ja` is `jump`, whose test of the target is the one of R224. -/
theorem unconditionalJump : Obligations.UnconditionalJump := by
  refine fun off => ⟨rfl, fun s f hf => ?_⟩
  rw [target_eq_targetSlot]
  exact ⟨jump_inside hf, jump_outside hf⟩

/-! ## The eleven conditions (R225 to R246) -/

/-- The model's test of a condition, on two register values. -/
def condTest : Cond → Word → Word → Bool
  | .eq => condEq
  | .gt => condGt
  | .ge => condGe
  | .set => condSet
  | .ne => condNe
  | .sgt => condSgt
  | .sge => condSge
  | .lt => condLt
  | .le => condLe
  | .slt => condSlt
  | .sle => condSle

/-- The test decides the condition on the numbers that the words stand for. -/
theorem condTest_iff (c : Cond) (a b : Word) : condTest c a b = true ↔ c.holds a.toNat b.toNat := by
  have hsgn (v : Word) : sgn 64 v.toNat = v.toInt := sgn_toNat (by decide) v
  cases c with
  | eq => exact beq_iff_eq.trans BitVec.toNat_inj.symm
  | ne => exact bne_iff_ne.trans BitVec.toNat_ne_iff_ne.symm
  | set => exact bne_iff_ne.trans (BitVec.toNat_ne_iff_ne (n := 64) (y := 0)).symm
  | gt | lt => exact BitVec.ult_iff_lt
  | ge | le => exact BitVec.ule_iff_le
  | sgt | slt => simp only [Cond.holds, hsgn]; exact BitVec.slt_iff_toInt_lt
  | sge | sle => simp only [Cond.holds, hsgn]; exact BitVec.sle_iff_toInt_le

section
variable (c : Cond) (dst src : Reg) (imm : Imm) (off : Off) (s : State)

theorem opcode_jumpImmOf : (jumpImmOf c dst imm off).opcode = c.opcode := by
  cases c with
  | eq | gt | ge | set | ne | sgt | sge | lt | le | slt | sle => rfl

theorem opcode_jumpRegOf : (jumpRegOf c dst src off).opcode = c.opcode + 8 := by
  cases c with
  | eq | gt | ge | set | ne | sgt | sge | lt | le | slt | sle => rfl

theorem exec_jumpImmOf : exec (jumpImmOf c dst imm off) s = jumpIfImm (condTest c) dst imm off s := by
  cases c with
  | eq | gt | ge | set | ne | sgt | sge | lt | le | slt | sle => rfl

theorem exec_jumpRegOf : exec (jumpRegOf c dst src off) s = jumpIfReg (condTest c) dst src off s := by
  cases c with
  | eq | gt | ge | set | ne | sgt | sge | lt | le | slt | sle => rfl

end

/-- Settles O51: all eleven are `jumpIf` on the test of `x[dst]` and the sign-extended immediate. -/
theorem conditionalJumpsOnImmediates : Obligations.ConditionalJumpsOnImmediates := by
  refine fun c dst imm off => ⟨opcode_jumpImmOf c dst imm off, fun s f a hf ha => ?_⟩
  have run : exec (jumpImmOf c dst imm off) s = jumpIf (condTest c a (sext64 imm)) off s :=
    (exec_jumpImmOf c dst imm off s).trans (withReg_holds ha _)
  exact jumpTemplate_of_jumpIf run (toNat_sext64 imm ▸ condTest_iff c a (sext64 imm)) hf

/-- Settles O52: all eleven are `jumpIf` on the test of the two registers. -/
theorem conditionalJumpsOnRegisters : Obligations.ConditionalJumpsOnRegisters := by
  refine fun c dst src off => ⟨opcode_jumpRegOf c dst src off, fun s f a b hf ha hb => ?_⟩
  have run : exec (jumpRegOf c dst src off) s = jumpIf (condTest c a b) off s :=
    (exec_jumpRegOf c dst src off s).trans ((withReg_holds ha _).trans (withReg_holds hb _))
  exact jumpTemplate_of_jumpIf run (condTest_iff c a b) hf

/-! ## Calls by their cases (R247, R248) -/

/-- What `call` and `callx` have in common, with the target slot `n`, or `reported` where the target is `outside` the
text: the depth, the target, the return location in that order; then the frame and the target. -/
def CallTemplate (i : Instr) (s : State) (outside : Prop) (reported : Target) (n : Nat) : Prop :=
  (s.params.maxCallDepth ≤ s.cs.length → exec i s = .next (afterPanic s (.stackOverflow s.pc))) ∧
  (s.cs.length < s.params.maxCallDepth → outside →
    exec i s = .next (afterPanic s (.targetOutOfBounds s.pc reported))) ∧
  (s.cs.length < s.params.maxCallDepth → ¬ outside → ∀ f, fnAt s.params s.pc = some f →
    (f.stop ≤ s.pc + 1 → exec i s = .next (afterPanic s (.targetOutOfBounds s.pc (.slot (s.pc + 1))))) ∧
    (s.pc + 1 < f.stop → exec i s = .next (called s n) ∧
      (s.params.hooks = .identity → exec i s = .next { s with cs := s.cs ++ [⟨s.pc + 1, []⟩], pc := n })))

section
variable {s t : State} {f : FnRange} {n : Nat} {reported : Target}

/-- The depth is tested first. -/
theorem callTo_full (target : Option Nat) (reported : Target) (h : s.params.maxCallDepth ≤ s.cs.length) :
    callTo target reported s = .next (panicked s (.stackOverflow s.pc)) := if_pos h

theorem callTo_outside (reported : Target) (h : s.cs.length < s.params.maxCallDepth) :
    callTo none reported s = .next (panicked s (.targetOutOfBounds s.pc reported)) := if_neg (Nat.not_le.mpr h)

theorem callTo_last (h : s.cs.length < s.params.maxCallDepth) (hf : fnAt s.params s.pc = some f)
    (hlast : f.stop ≤ s.pc + 1) : callTo (some n) reported s = .next (panicked s (advancePanic s)) := by
  rw [callTo, if_neg (Nat.not_le.mpr h)]
  exact (withFn_some hf _).trans (if_pos hlast)

theorem callTo_completes (h : s.cs.length < s.params.maxCallDepth) (hf : fnAt s.params s.pc = some f)
    (hin : s.pc + 1 < f.stop) : callTo (some n) reported s = .next (called s n) := by
  rw [callTo, if_neg (Nat.not_le.mpr h)]
  exact (withFn_some hf _).trans (if_neg (Nat.not_le.mpr hin))

/-- The default hooks save nothing and change no register. -/
theorem called_identity (n : Nat) (hh : s.params.hooks = .identity) :
    called s n = { s with cs := s.cs ++ [⟨s.pc + 1, []⟩], pc := n } := by
  simp only [called, hh, saveRegs_identity, onCall_identity]

theorem callTemplate_of_callTo {i : Instr} {outside : Prop} {target : Option Nat}
    (run : exec i s = callTo target reported s) (hout : outside → target = none)
    (hin : ¬ outside → target = some n) : CallTemplate i s outside reported n := by
  rw [CallTemplate, run]
  refine ⟨callTo_full target reported, fun hdepth ho => ?_, fun hdepth hn f hf => ?_⟩
  · rw [hout ho]
    exact callTo_outside reported hdepth
  · rw [hin hn]
    refine ⟨callTo_last hdepth hf, fun hlt => ?_⟩
    rw [callTo_completes hdepth hf hlt]
    exact ⟨rfl, fun hh => by rw [called_identity n hh]⟩

/-- A call pushes its frame and goes to the target, or it panics and leaves the rest of the state alone. -/
theorem callTo_completes_or_panics {target : Option Nat} (h : callTo target reported s = .next t) :
    (∃ n f, target = some n ∧ fnAt s.params s.pc = some f ∧ s.pc + 1 < f.stop ∧ t = called s n) ∨
    ∃ p, t = panicked s p := by
  obtain ⟨-, ht⟩ | ⟨-, ⟨-, ht⟩ | ⟨n, f, hn, hf, ⟨-, ht⟩ | ⟨hlt, ht⟩⟩⟩ := callTo_next h
  · exact .inr ⟨_, ht⟩
  · exact .inr ⟨_, ht⟩
  · exact .inr ⟨_, ht⟩
  · exact .inl ⟨n, f, hn, hf, hlt, ht⟩

end

/-- Settles O53: `call` is `callTo` with the target tested against the text. -/
theorem callPushesAFrame : Obligations.CallPushesAFrame := by
  refine fun off => ⟨rfl, fun s => ?_⟩
  rw [target_eq_targetSlot]
  exact callTemplate_of_callTo rfl slotInText_none.mpr fun hn => if_neg hn

/-- Settles O54: `callx` is `callTo` with the target slot read from the byte address. -/
theorem callxTakesAByteAddress : Obligations.CallxTakesAByteAddress :=
  fun _ => ⟨rfl, fun _ _ ha =>
    callTemplate_of_callTo (withReg_holds ha _) (fun hbad => if_pos hbad) fun hn => if_neg hn⟩

/-! ## Return (R249) -/

/-- Settles O55: `exit` is `returnOrHalt`, and the default hooks restore nothing. -/
theorem exitReturnsOrHalts : Obligations.ExitReturnsOrHalts := by
  refine ⟨rfl, fun s => returnOrHalt_empty, fun s fs f => returnOrHalt_frame, fun s fs f hcs hh => ?_⟩
  have hret := returnOrHalt_frame hcs
  rwa [hh, onReturn_identity] at hret

/-- Settles O56: the frame that the call pushed is the newest, and it holds the slot behind the call. -/
theorem exitReturnsBehindTheCall : Obligations.ExitReturnsBehindTheCall := by
  intro i s t hi _ h hrun u hu
  have hcall : ∃ target reported, callTo target reported s = .next t := by
    obtain ⟨off, rfl⟩ | ⟨src, rfl⟩ := hi
    · exact ⟨_, _, h⟩
    · obtain ⟨a, -, h⟩ := withReg_next h
      exact ⟨_, _, h⟩
  obtain ⟨target, reported, h⟩ := hcall
  obtain ⟨n, f, -, -, -, rfl⟩ | ⟨p, rfl⟩ := callTo_completes_or_panics h
  · exact ⟨_, returnOrHalt_frame hu, rfl, rfl, rfl, rfl⟩
  · cases hrun

/-! ## What a transfer of control keeps -/

/-- Control has gone to a slot below the end of the current function, and nothing else has changed. -/
def GoesWithin (s t : State) : Prop :=
  ∃ (f : FnRange) (n : Nat), fnAt s.params s.pc = some f ∧ n < f.stop ∧ t = { s with pc := n }

/-- The next states a control-flow instruction can answer: a panic, a slot of the current function, a call to a slot of
the text that the current function goes on behind, the halt or a return. -/
inductive Transfer (s : State) : State → Prop where
  | panic (p : Panic) : Transfer s (panicked s p)
  | goto (f : FnRange) (n : Nat) (hf : fnAt s.params s.pc = some f) (hn : n < f.stop) : Transfer s { s with pc := n }
  | call (f : FnRange) (n : Nat) (hf : fnAt s.params s.pc = some f) (hret : s.pc + 1 < f.stop)
      (hn : n < s.params.text.length) : Transfer s (called s n)
  | halt : Transfer s { s with status := .halted }
  | ret (fs : List Frame) (f : Frame) (hcs : s.cs = fs ++ [f]) :
      Transfer s { s with cs := fs, regs := onReturn s.params.hooks s.regs f.saved, pc := f.ret }

section
variable {i : Instr} {s t : State} {off : Off}

/-- `ja` goes to a slot of its function, or it panics. -/
theorem jump_goes_or_panics (h : jump off s = .next t) : GoesWithin s t ∨ ∃ p, t = panicked s p := by
  obtain ⟨f, hf, ⟨hge, hlt, ht⟩ | ⟨-, ht⟩⟩ := jump_next h
  · exact .inl ⟨f, _, hf, by omega, ht⟩
  · exact .inr ⟨_, ht⟩

/-- A conditional jump goes to a slot of its function, taken or not, or it panics. -/
theorem jumpIf_goes_or_panics {c : Bool} (h : jumpIf c off s = .next t) :
    GoesWithin s t ∨ ∃ p, t = panicked s p := by
  obtain ⟨f, hf, ⟨-, ht⟩ | ⟨hge, hlt, ⟨-, ht⟩ | ⟨-, hnext, ht⟩ | ⟨-, -, ht⟩⟩⟩ := jumpIf_next h
  · exact .inr ⟨_, ht⟩
  · exact .inl ⟨f, _, hf, by omega, ht⟩
  · exact .inl ⟨f, _, hf, hnext, ht⟩
  · exact .inr ⟨_, ht⟩

theorem transfer_of_goes_or_panics (h : GoesWithin s t ∨ ∃ p, t = panicked s p) : Transfer s t := by
  obtain ⟨f, n, hf, hn, rfl⟩ | ⟨p, rfl⟩ := h
  · exact .goto f n hf hn
  · exact .panic p

theorem transfer_of_callTo {target : Option Nat} {reported : Target}
    (htext : ∀ n, target = some n → n < s.params.text.length) (h : callTo target reported s = .next t) :
    Transfer s t := by
  obtain ⟨n, f, hn, hf, hlt, rfl⟩ | ⟨p, rfl⟩ := callTo_completes_or_panics h
  · exact .call f n hf hlt (htext n hn)
  · exact .panic p

/-- Everything a control-flow instruction can answer as a next state. -/
theorem exec_transfer (hseq : isSequential i = false) (h : exec i s = .next t) : Transfer s t := by
  cases operation i with
  | update _ _ _ profile | update2 _ _ _ _ profile | const _ _ _ profile | copy _ _ _ _ profile
  | divide _ _ _ profile | divide2 _ _ _ _ profile | load _ _ _ _ _ profile | storeImm _ _ _ _ _ profile
  | storeReg _ _ _ _ _ profile => cases hseq.symm.trans profile.sequential_eq
  | jump off => exact transfer_of_goes_or_panics (jump_goes_or_panics h)
  | jumpIfImm c dst imm off run =>
    obtain ⟨a, -, h⟩ := jumpIfImm_next (run s ▸ h)
    exact transfer_of_goes_or_panics (jumpIf_goes_or_panics h)
  | jumpIfReg c dst src off run =>
    obtain ⟨a, b, -, -, h⟩ := jumpIfReg_next (run s ▸ h)
    exact transfer_of_goes_or_panics (jumpIf_goes_or_panics h)
  | call off =>
    refine transfer_of_callTo (fun n hn => ?_) h
    obtain ⟨hge, hlt, rfl⟩ := slotInText_some.mp hn
    omega
  | callx src =>
    obtain ⟨a, -, h⟩ := withReg_next h
    exact transfer_of_callTo (fun n hn => (slotOfAddress_some.mp hn).1) h
  | exit =>
    obtain ⟨-, rfl⟩ | ⟨fs, f, hcs, rfl⟩ := returnOrHalt_next h
    · exact .halt
    · exact .ret fs f hcs

theorem Transfer.mem_eq (h : Transfer s t) : t.mem = s.mem := by cases h <;> rfl

theorem Transfer.params_eq (h : Transfer s t) : t.params = s.params := by cases h <;> rfl

/-- Only the hooks of a call or a return touch the registers (R220). -/
theorem Transfer.regs_eq (h : Transfer s t) (hh : s.params.hooks = .identity) : t.regs = s.regs := by
  cases h with
  | panic | goto | halt => rfl
  | call | ret => simp [hh]

end

/-- Settles O59: no transfer touches the memory, and the jumps change `pc` or the status alone. -/
theorem controlFlowFrame : Obligations.ControlFlowFrame := by
  constructor
  case left =>
    intro i s t hseq h
    have ht := exec_transfer hseq h
    exact ⟨fun a => by rw [ht.mem_eq], ht.mem_eq, ht.params_eq, fun hh => State.reg_eq_of_regs (ht.regs_eq hh)⟩
  case right =>
    intro c dst src imm off i s t hi h
    have hjump : GoesWithin s t ∨ ∃ p, t = panicked s p := by
      obtain rfl | rfl | rfl := hi
      · exact jump_goes_or_panics h
      · obtain ⟨a, -, h⟩ := jumpIfImm_next (exec_jumpImmOf .. ▸ h)
        exact jumpIf_goes_or_panics h
      · obtain ⟨a, b, -, -, h⟩ := jumpIfReg_next (exec_jumpRegOf .. ▸ h)
        exact jumpIf_goes_or_panics h
    obtain ⟨f, n, -, -, rfl⟩ | ⟨p, rfl⟩ := hjump
    · exact ⟨fun _ => rfl, rfl, .inl rfl⟩
    · exact ⟨fun _ => rfl, rfl, .inr ⟨p, rfl⟩⟩

/-! ## The launch invariant (R291, R294) -/

theorem functionsPartition_of_paramsValid {p : Params} (h : paramsValid p = true) :
    functionsPartition p.text.length p.functions = true := by
  simp only [paramsValid, Bool.and_eq_true] at h
  obtain ⟨⟨⟨⟨-, hpart⟩, -⟩, -⟩, -⟩ := h
  exact hpart

/-- The ranges of a partition lie inside the text. -/
theorem stop_le_of_functionsPartition {n : Nat} {fs : List FnRange} {f : FnRange}
    (h : functionsPartition n fs = true) (hf : f ∈ fs) : f.stop ≤ n := by
  simp only [functionsPartition, Bool.and_eq_true, List.all_eq_true, decide_eq_true_eq] at h
  obtain ⟨hranges, -⟩ := h
  obtain ⟨-, hstop⟩ := hranges f hf
  exact hstop

section
variable {i : Instr} {s t : State}

/-- In a live state every slot below the end of the current function is a slot of the text. -/
theorem State.Live.lt_length (hs : s.Live) {f : FnRange} {n : Nat} (hf : fnAt s.params s.pc = some f)
    (hn : n < f.stop) : n < s.params.text.length := by
  obtain ⟨hvalid, -⟩ := hs
  obtain ⟨hmem, -⟩ := fnAt_some hf
  exact Nat.lt_of_lt_of_le hn (stop_le_of_functionsPartition (functionsPartition_of_paramsValid hvalid) hmem)

/-- A live state that can advance has a next slot. -/
theorem State.Live.succ_pc_lt (hs : s.Live) (hadv : canAdvance s = true) : s.pc + 1 < s.params.text.length := by
  obtain ⟨f, hf, hlt⟩ := canAdvance_iff.mp hadv
  exact hs.lt_length hf hlt

/-- A sequential instruction keeps the call stack, and moves `pc` only where the function goes on. -/
theorem Effect.live (h : Effect i s t) (hseq : isSequential i = true) (hs : s.Live) : t.Live := by
  have hnext := hs.succ_pc_lt
  obtain ⟨hvalid, hpc, hcs⟩ := hs
  cases h with
  | panic => exact ⟨hvalid, hpc, hcs⟩
  | write _ _ _ hadv | store _ _ _ _ hadv => exact ⟨hvalid, hnext hadv, hcs⟩
  | goto _ hno | call _ hno | halt hno | ret _ _ hno => cases hseq.symm.trans hno

/-- A transfer goes to a slot of the text; the return location that a call pushes is one, and a return takes one. -/
theorem Transfer.live (h : Transfer s t) (hs : s.Live) : t.Live := by
  have hslot {f : FnRange} {n : Nat} := hs.lt_length (f := f) (n := n)
  obtain ⟨hvalid, hpc, hcs⟩ := hs
  cases h with
  | panic | halt => exact ⟨hvalid, hpc, hcs⟩
  | goto f n hf hn => exact ⟨hvalid, hslot hf hn, hcs⟩
  | call f n hf hret hn =>
    refine ⟨hvalid, hn, List.forall_mem_append.mpr ⟨hcs, ?_⟩⟩
    exact List.forall_mem_singleton.mpr (hslot hf hret)
  | ret fs f hfs =>
    obtain ⟨hrest, hnewest⟩ := List.forall_mem_append.mp (hfs ▸ hcs)
    exact ⟨hvalid, hnewest f (List.mem_singleton_self f), hrest⟩

theorem exec_live (h : exec i s = .next t) (hs : s.Live) : t.Live := by
  cases hseq : isSequential i with
  | true => exact (exec_effect h).live hseq hs
  | false => exact (exec_transfer hseq h).live hs

end

/-- Settles O16: an invalid word's panic leaves `pc` and the frames, and every instruction keeps them inside the text. -/
theorem everyStepKeepsTheLaunchInvariant : Obligations.EveryStepKeepsTheLaunchInvariant := by
  intro s t hs h
  obtain ⟨-, w, -, ⟨e, -, rfl⟩ | ⟨i, -, h⟩⟩ := step_next h
  · exact hs
  · exact exec_live h hs

end Sys2Proof.Machine
end

section
/-! PROOFS. Panics (60_exceptions.md): each leaves the state as it was but for the status, which instruction raises
which and what it records, and that reading a register without a value is the one thing that stops an instruction from
answering a state. -/
namespace Sys2Proof.Machine
open Sys2Proof.Claim

/-! ## Panics are precise and terminal (R262) -/

section
variable {i : Instr} {s t : State} {p : Panic}

/-- Of all effects on a running state only a panic leaves it faulted. -/
theorem Effect.eq_panicked (h : Effect i s t) (hs : s.status = .running) (ht : t.status = .faulted p) :
    t = panicked s p := by
  cases h with
  | panic q => cases ht; rfl
  | halt => cases ht
  | write | store | goto | call | ret => cases hs.symm.trans ht

theorem step_eq_panicked (h : step s = .next t) (ht : t.status = .faulted p) : t = panicked s p := by
  obtain ⟨hs, -⟩ := step_next h
  obtain ⟨q, rfl⟩ | ⟨i, -, he⟩ := step_effect h
  · cases ht; rfl
  · exact he.eq_panicked hs ht

/-- A faulted state has no successor (R33). -/
theorem step_faulted (h : s.status = .faulted p) : step s = .fault (.stopped p) := by
  simp [step, h]

end

/-- Settles O12: of the effects only the panic faults a running state, and the step of a faulted state is a fault. -/
theorem panicsArePreciseAndTerminal : Obligations.PanicsArePreciseAndTerminal := by
  refine ⟨fun i s t p hs h ht => (exec_effect h).eq_panicked hs ht, fun s t p h ht => step_eq_panicked h ht, ?_⟩
  rintro s t p rfl u h
  cases (step_faulted (s := afterPanic s p) rfl).symm.trans h

/-! ## What a panic records (R260, R263) -/

/-- The panics that executing an instruction in slot `pc` can raise: the six of R260 that are not about an invalid
word, each recording that slot. -/
inductive RaisedAt (pc : Nat) : Panic → Prop where
  | divisionByZero : RaisedAt pc (.divisionByZero pc)
  | negativeOverflow : RaisedAt pc (.negativeOverflow pc)
  | memoryOutOfBounds (ea : Word) (n : Nat) (access : Access) : RaisedAt pc (.memoryOutOfBounds pc ea n access)
  | accessViolation (ea : Word) (n : Nat) : RaisedAt pc (.accessViolation pc ea n)
  | targetOutOfBounds (tgt : Target) : RaisedAt pc (.targetOutOfBounds pc tgt)
  | stackOverflow : RaisedAt pc (.stackOverflow pc)

theorem raisedAt_iff {pc : Nat} {p : Panic} : RaisedAt pc p ↔
    p = .divisionByZero pc ∨ p = .negativeOverflow pc ∨ (∃ ea n acc, p = .memoryOutOfBounds pc ea n acc) ∨
      (∃ ea n, p = .accessViolation pc ea n) ∨ (∃ tgt, p = .targetOutOfBounds pc tgt) ∨ p = .stackOverflow pc := by
  constructor
  · intro h
    cases h <;> simp
  · rintro (rfl | rfl | ⟨ea, n, acc, rfl⟩ | ⟨ea, n, rfl⟩ | ⟨tgt, rfl⟩ | rfl) <;> constructor

theorem raisedAt_panicAt (pc : Nat) (q : DivisionPanic) : RaisedAt pc (q.panicAt pc) := by
  cases q with
  | byZero => exact .divisionByZero
  | negativeOverflow => exact .negativeOverflow

section
variable {i : Instr} {s t : State} {p : Panic}

theorem raisedAt_of_advance {u : State} (h : advance s u = .next t) (hu : u.status = .running)
    (ht : t.status = .faulted p) : RaisedAt s.pc p :=
  panic_of_advance_faulted h hu ht ▸ .targetOutOfBounds _

theorem raisedAt_of_finishDivision {r : Except DivisionPanic Word} {dst : Reg} (h : finishDivision r dst s = .next t)
    (hs : s.status = .running) (ht : t.status = .faulted p) : RaisedAt s.pc p := by
  obtain ⟨q, -, rfl⟩ | rfl := panic_of_finishDivision_faulted hs h ht
  · exact raisedAt_panicAt s.pc q
  · exact .targetOutOfBounds _

theorem raisedAt_of_finishStore {w : Width} {base : Word} {off : Off} {v : Nat}
    (h : finishStore w base off v s = .next t) (hs : s.status = .running) (ht : t.status = .faulted p) :
    RaisedAt s.pc p := by
  obtain ⟨ea, n, rfl | rfl⟩ | rfl := panic_of_finishStore_faulted hs h ht
  · exact .memoryOutOfBounds ea n .store
  · exact .accessViolation ea n
  · exact .targetOutOfBounds _

theorem raisedAt_of_jumpIf {c : Bool} {off : Off} (h : jumpIf c off s = .next t) (hs : s.status = .running)
    (ht : t.status = .faulted p) : RaisedAt s.pc p := by
  obtain ⟨tgt, rfl⟩ := panic_of_jumpIf_faulted hs h ht
  exact .targetOutOfBounds tgt

theorem raisedAt_of_callTo {target : Option Nat} {reported : Target} (h : callTo target reported s = .next t)
    (hs : s.status = .running) (ht : t.status = .faulted p) : RaisedAt s.pc p := by
  obtain rfl | ⟨tgt, rfl⟩ := panic_of_callTo_faulted hs h ht
  · exact .stackOverflow
  · exact .targetOutOfBounds tgt

/-- `exit` has no panic (R249, R263). -/
theorem returnOrHalt_not_faulted (hs : s.status = .running) (h : returnOrHalt s = .next t) :
    t.status ≠ .faulted p := by
  intro ht
  obtain ⟨-, rfl⟩ | ⟨fs, f, -, rfl⟩ := returnOrHalt_next h
  · cases ht
  · cases hs.symm.trans ht

/-- An instruction that faults a running state raises one of the six panics, at its own slot. -/
theorem raisedAt_of_exec (h : exec i s = .next t) (hs : s.status = .running) (ht : t.status = .faulted p) :
    RaisedAt s.pc p := by
  cases operation i with
  | update f dst run =>
    obtain ⟨a, -, h⟩ := updateReg_next (run s ▸ h)
    exact raisedAt_of_advance h hs ht
  | update2 f dst src run =>
    obtain ⟨a, b, -, -, h⟩ := updateReg2_next (run s ▸ h)
    exact raisedAt_of_advance h hs ht
  | const v dst run => exact raisedAt_of_advance ((run s).symm.trans h) hs ht
  | copy f dst src run =>
    obtain ⟨b, -, h⟩ := copyReg_next (run s ▸ h)
    exact raisedAt_of_advance h hs ht
  | divide f dst run =>
    obtain ⟨a, -, h⟩ := divideReg_next (run s ▸ h)
    exact raisedAt_of_finishDivision h hs ht
  | divide2 f dst src run =>
    obtain ⟨a, b, -, -, h⟩ := divideReg2_next (run s ▸ h)
    exact raisedAt_of_finishDivision h hs ht
  | load w dst src off run =>
    obtain ⟨base, -, ⟨-, h⟩ | rfl⟩ := load_next (run s ▸ h)
    · exact raisedAt_of_advance h hs ht
    · cases ht; exact .memoryOutOfBounds _ _ .load
  | storeImm w dst off v run =>
    obtain ⟨base, -, h⟩ := storeImm_next (run s ▸ h)
    exact raisedAt_of_finishStore h hs ht
  | storeReg w dst off src run =>
    obtain ⟨base, v, -, -, h⟩ := storeReg_next (run s ▸ h)
    exact raisedAt_of_finishStore h hs ht
  | jump off =>
    obtain ⟨f, -, ⟨-, -, rfl⟩ | ⟨-, rfl⟩⟩ := jump_next h
    · cases hs.symm.trans ht
    · cases ht; exact .targetOutOfBounds _
  | jumpIfImm c dst imm off run =>
    obtain ⟨a, -, h⟩ := jumpIfImm_next (run s ▸ h)
    exact raisedAt_of_jumpIf h hs ht
  | jumpIfReg c dst src off run =>
    obtain ⟨a, b, -, -, h⟩ := jumpIfReg_next (run s ▸ h)
    exact raisedAt_of_jumpIf h hs ht
  | call off => exact raisedAt_of_callTo h hs ht
  | callx src =>
    obtain ⟨a, -, h⟩ := withReg_next h
    exact raisedAt_of_callTo h hs ht
  | exit => exact absurd ht (returnOrHalt_not_faulted hs h)

/-- Every transfer of control but `exit` may raise `TargetOutOfBounds` of its own (R263). -/
theorem ownPanic_targetOutOfBounds (hseq : isSequential i = false) (hexit : i ≠ .exit) (pc : Nat) (tgt : Target) :
    ownPanic i (.targetOutOfBounds pc tgt) = true := by
  cases operation i with
  | update _ _ _ profile | update2 _ _ _ _ profile | const _ _ _ profile | copy _ _ _ _ profile
  | divide _ _ _ profile | divide2 _ _ _ _ profile | load _ _ _ _ _ profile | storeImm _ _ _ _ _ profile
  | storeReg _ _ _ _ _ profile => cases hseq.symm.trans profile.sequential_eq
  | jumpIfImm _ _ _ _ _ _ own | jumpIfReg _ _ _ _ _ _ own => exact own pc tgt
  | jump | call | callx => rfl
  | exit => exact absurd rfl hexit

end

/-- Settles O25: a panic is the instruction's own or that of the advance, and the instructions that do not advance
count the latter among their own. -/
theorem eachInstructionRaisesOnlyItsPanics : Obligations.EachInstructionRaisesOnlyItsPanics := by
  intro i s t p hs h ht
  refine ⟨?_, raisedAt_iff.mp (raisedAt_of_exec h hs ht)⟩
  obtain hown | rfl := ownPanic_or_advancePanic hs h ht
  · exact .inl hown
  · cases hseq : isSequential i with
    | true => exact .inr ⟨rfl, rfl⟩
    | false =>
      refine .inl (ownPanic_targetOutOfBounds hseq ?_ _ _)
      rintro rfl
      exact returnOrHalt_not_faulted hs h ht

/-! ## Registers that hold no value (R266) -/

/-- The instruction is refused in `s` for a register that it reads and that holds no value. -/
def RefusesRead (i : Instr) (s : State) : Prop :=
  ∃ q ∈ reads i, s.reg q = .unwritten ∧ exec i s = .refused (.unwrittenRegisterRead s.pc q)

section
variable {i : Instr} {s : State}

/-- The first read of an instruction refuses it where the register holds no value. -/
theorem refusesRead_first {r : Reg} {k : Word → Out} (hmem : r ∈ reads i) (hr : s.reg r = .unwritten)
    (run : exec i s = withReg s r k) : RefusesRead i s :=
  ⟨r, hmem, hr, run.trans (withReg_unwritten hr k)⟩

theorem refusesRead_of_one {r : Reg} {k : Word → Out} (hreads : reads i = [r])
    (h : ∃ q ∈ reads i, s.reg q = .unwritten) (run : exec i s = withReg s r k) : RefusesRead i s := by
  obtain ⟨q, hq, hu⟩ := h
  obtain rfl : q = r := by simpa [hreads] using hq
  exact refusesRead_first hq hu run

/-- Of two registers that hold no value the refusal names the one read first (log 11). -/
theorem refusesRead_of_two {r r' : Reg} {k : Word → Word → Out} (hreads : reads i = [r, r'])
    (h : ∃ q ∈ reads i, s.reg q = .unwritten) (run : exec i s = withReg s r fun a => withReg s r' (k a)) :
    RefusesRead i s := by
  obtain ⟨q, hq, hu⟩ := h
  cases hr : s.reg r with
  | unwritten => exact refusesRead_first (by simp [hreads]) hr run
  | holds a =>
    have hne : q ≠ r := fun e => by simp [e, hr] at hu
    obtain rfl : q = r' := by simpa [hreads, hne] using hq
    exact refusesRead_first hq hu (run.trans (withReg_holds hr _))

theorem not_unwritten_of_reads_nil (hreads : reads i = []) : ¬ ∃ q ∈ reads i, s.reg q = .unwritten := by
  simp [hreads]

/-- An instruction reads its registers before anything else, so one that holds no value refuses it. -/
theorem refusesRead_of_unwritten (h : ∃ q ∈ reads i, s.reg q = .unwritten) : RefusesRead i s := by
  cases operation i with
  | update _ _ run profile | copy _ _ _ run profile | divide _ _ run profile | load _ _ _ _ run profile
  | storeImm _ _ _ _ run profile | jumpIfImm _ _ _ _ run profile =>
    exact refusesRead_of_one profile.reads_eq h (run s)
  | update2 _ _ _ run profile | divide2 _ _ _ run profile | storeReg _ _ _ _ run profile
  | jumpIfReg _ _ _ _ run profile => exact refusesRead_of_two profile.reads_eq h (run s)
  | callx src => exact refusesRead_of_one rfl h rfl
  | const _ _ _ profile => exact absurd h (not_unwritten_of_reads_nil profile.reads_eq)
  | jump | call | exit => exact absurd h (not_unwritten_of_reads_nil rfl)

end

/-! ## Nothing else stops an instruction (R294) -/

section
variable {i : Instr} {s : State} {f : FnRange}

theorem advance_total (u : State) (hf : fnAt s.params s.pc = some f) : ∃ t, advance s u = .next t := by
  obtain hlt | hle := Nat.lt_or_ge (s.pc + 1) f.stop
  · exact ⟨_, advance_inside u hf hlt⟩
  · exact ⟨_, advance_outside u hf hle⟩

theorem jump_total (off : Off) (hf : fnAt s.params s.pc = some f) : ∃ t, jump off s = .next t := by
  by_cases hout : targetSlot s.pc off < f.start ∨ (f.stop : Int) ≤ targetSlot s.pc off
  · exact ⟨_, jump_outside hf hout⟩
  · exact ⟨_, jump_inside hf (by omega) (by omega)⟩

theorem jumpIf_total (c : Bool) (off : Off) (hf : fnAt s.params s.pc = some f) : ∃ t, jumpIf c off s = .next t := by
  by_cases hout : targetSlot s.pc off < f.start ∨ (f.stop : Int) ≤ targetSlot s.pc off
  · exact ⟨_, jumpIf_outside c hf hout⟩
  · have hge : (f.start : Int) ≤ targetSlot s.pc off := by omega
    have hlt : targetSlot s.pc off < f.stop := by omega
    cases c with
    | true => exact ⟨_, jumpIf_taken hf hge hlt⟩
    | false =>
      obtain hnext | hlast := Nat.lt_or_ge (s.pc + 1) f.stop
      · exact ⟨_, jumpIf_notTaken hf hge hlt hnext⟩
      · exact ⟨_, jumpIf_notTaken_last hf hge hlt hlast⟩

theorem callTo_total (target : Option Nat) (reported : Target) (hf : fnAt s.params s.pc = some f) :
    ∃ t, callTo target reported s = .next t := by
  obtain hdepth | hfull := Nat.lt_or_ge s.cs.length s.params.maxCallDepth
  · cases target with
    | none => exact ⟨_, callTo_outside reported hdepth⟩
    | some n =>
      obtain hnext | hlast := Nat.lt_or_ge (s.pc + 1) f.stop
      · exact ⟨_, callTo_completes hdepth hf hnext⟩
      · exact ⟨_, callTo_last hdepth hf hlast⟩
  · exact ⟨_, callTo_full target reported hfull⟩

theorem returnOrHalt_total (s : State) : ∃ t, returnOrHalt s = .next t := by
  rcases List.eq_nil_or_concat s.cs with hcs | ⟨fs, f, hcs⟩
  · exact ⟨_, returnOrHalt_empty hcs⟩
  · exact ⟨_, returnOrHalt_frame (List.concat_eq_append ▸ hcs)⟩

/-- Inside a function an instruction whose operands are written answers a next state: a sequential one raises its own
panic or comes to its advance, and a transfer of control goes somewhere or panics. -/
theorem exec_total (hf : fnAt s.params s.pc = some f) (hr : ∀ r ∈ reads i, s.reg r ≠ .unwritten) :
    ∃ t, exec i s = .next t := by
  have value : ∀ r ∈ reads i, ∃ v, s.reg r = .holds v := fun r h => holds_of_ne_unwritten (hr r h)
  cases operation i with
  | update _ _ _ profile | update2 _ _ _ _ profile | const _ _ _ profile | copy _ _ _ _ profile
  | divide _ _ _ profile | divide2 _ _ _ _ profile | load _ _ _ _ _ profile | storeImm _ _ _ _ _ profile
  | storeReg _ _ _ _ _ profile =>
    cases prepared_of_sequential profile.sequential_eq hr with
    | raises p own run => exact ⟨_, run s.params.functions⟩
    | advances write run => exact run s.params.functions ▸ advance_total (write s) hf
  | jump off => exact jump_total off hf
  | jumpIfImm c dst imm off run profile =>
    obtain ⟨a, ha⟩ := value dst (by simp [profile.reads_eq])
    rw [run, jumpIfImm, withReg_holds ha]
    exact jumpIf_total _ off hf
  | jumpIfReg c dst src off run profile =>
    obtain ⟨a, ha⟩ := value dst (by simp [profile.reads_eq])
    obtain ⟨b, hb⟩ := value src (by simp [profile.reads_eq])
    rw [run, jumpIfReg, withReg_holds ha, withReg_holds hb]
    exact jumpIf_total _ off hf
  | call off => exact callTo_total _ _ hf
  | callx src =>
    obtain ⟨a, ha⟩ := value src (List.mem_singleton_self src)
    simp only [exec, execCallx, withReg_holds ha]
    exact callTo_total _ _ hf
  | exit => exact returnOrHalt_total s

end

/-- Settles O24: the reads come first and are all that can refuse an instruction inside a function. -/
theorem unwrittenRegisterReadIsRefused : Obligations.UnwrittenRegisterReadIsRefused :=
  ⟨fun _ _ h => refusesRead_of_unwritten h, fun _ _ _ hf hr => exec_total hf hr⟩

end Sys2Proof.Machine
end

section
/-! PROOFS. The step of a running machine, and which inputs the launch accepts (R290, R291, R294). -/
namespace Sys2Proof.Machine
open Sys2Proof.Claim

/-! ## The step is `exec` of the fetched instruction (R294) -/

/-- Settles O10: fetch, decode, execute, with nothing in between. -/
theorem stepRunsTheDecodedInstruction : Obligations.StepRunsTheDecodedInstruction :=
  fun _ _ _ hs hw hd => (step_running hs hw).trans (runWord_ok hd)

/-! ## The function of a slot (R31) -/

theorem functionsPartition_iff {p : Params} :
    functionsPartition p.text.length p.functions = true ↔ FunctionsPartition p := by
  simp [functionsPartition, FunctionsPartition, inRange]

section
variable {p : Params} {slot : Nat} {f : FnRange}

/-- In a partition exactly one range contains a slot of the text. -/
theorem existsUnique_range (hp : FunctionsPartition p) (hlt : slot < p.text.length) :
    ∃! f, f ∈ p.functions ∧ f.start ≤ slot ∧ slot < f.stop := by
  obtain ⟨-, hone⟩ := hp
  obtain ⟨g, hg⟩ := List.length_eq_one_iff.mp (hone slot hlt)
  have hmem (f : FnRange) : f ∈ p.functions ∧ f.start ≤ slot ∧ slot < f.stop ↔ f = g := by
    simpa using (congrArg (f ∈ ·) hg).to_iff
  exact ⟨g, (hmem g).mpr rfl, fun f => (hmem f).mp⟩

theorem exists_fnAt (hp : FunctionsPartition p) (hlt : slot < p.text.length) : ∃ f, fnAt p slot = some f := by
  obtain ⟨f, hf, hin⟩ := (existsUnique_range hp hlt).exists
  exact Option.isSome_iff_exists.mp (List.find?_isSome.mpr ⟨f, hf, by simpa [inRange] using hin⟩)

/-- In a partition the function found for a slot stands for all ranges that contain the slot. -/
theorem forall_range_iff (hp : FunctionsPartition p) (hlt : slot < p.text.length) (hf : fnAt p slot = some f)
    {Q : FnRange → Prop} : (∀ g ∈ p.functions, g.start ≤ slot → slot < g.stop → Q g) ↔ Q f := by
  constructor
  · intro h
    obtain ⟨hmem, hge, hin⟩ := fnAt_some hf
    exact h f hmem hge hin
  · intro hQ g hg hge hin
    rwa [(existsUnique_range hp hlt).unique ⟨hg, hge, hin⟩ (fnAt_some hf)]

end

/-! ## Every running state of a launched machine has a step (R266, R294) -/

section
variable {s : State}

theorem State.Live.exists_fnAt (hs : s.Live) : ∃ f, fnAt s.params s.pc = some f := by
  obtain ⟨hvalid, hpc, -⟩ := hs
  exact Machine.exists_fnAt (functionsPartition_iff.mp (functionsPartition_of_paramsValid hvalid)) hpc

theorem State.Live.exists_fetch (hs : s.Live) : ∃ w, fetch s = some w := by
  obtain ⟨-, hpc, -⟩ := hs
  exact ⟨_, List.getElem?_eq_getElem hpc⟩

/-- Fetch is defined, an invalid word panics, and an instruction is refused for a register it reads or answers a state. -/
theorem step_next_or_refusesRead (hs : s.Live) (hrun : s.status = .running) :
    (∃ t, step s = .next t) ∨ ∃ i, instrAt s.params s.pc = some i ∧ step s = exec i s ∧ RefusesRead i s := by
  obtain ⟨w, hw⟩ := hs.exists_fetch
  cases hd : decode s.params.strictUnusedFields w with
  | error e => exact .inl ⟨_, step_of_decode_error hrun hw hd⟩
  | ok i =>
    have hi : instrAt s.params s.pc = some i := instrAt_eq_some.mpr ⟨w, hw, hd⟩
    rw [step_of_instrAt hrun hi]
    by_cases hr : ∃ r ∈ reads i, s.reg r = .unwritten
    · exact .inr ⟨i, hi, rfl, refusesRead_of_unwritten hr⟩
    · obtain ⟨f, hf⟩ := hs.exists_fnAt
      exact .inl (exec_total hf fun r hmem hu => hr ⟨r, hmem, hu⟩)

end

/-- Settles O11: the read of a register without a value is the one refusal of a running state
(`step_next_or_refusesRead`), and where every register is written there is none to read. -/
theorem stepIsTotalWhileRunning : Obligations.StepIsTotalWhileRunning := by
  refine ⟨fun s hs hrun => ?_, fun s hs hrun hall => ?_, fun s hh => ?_, fun s p => step_faulted⟩
  · refine (step_next_or_refusesRead hs hrun).imp_right ?_
    rintro ⟨i, hi, hstep, r, hr, hu, hexec⟩
    exact ⟨i, r, hi, hr, hu, hstep.trans hexec⟩
  · refine (step_next_or_refusesRead hs hrun).resolve_right ?_
    rintro ⟨i, -, -, r, -, hu, -⟩
    exact hall r hu
  · rw [step, hh]

/-! ## What the launch accepts (R291) -/

theorem regionsValid_iff {memMap : List Region} : regionsValid memMap = true ↔
    (∀ r ∈ memMap, 1 ≤ r.len ∧ r.base + r.len ≤ 2 ^ 64) ∧
    memMap.Pairwise (fun r q => r.base + r.len ≤ q.base ∨ q.base + q.len ≤ r.base) := by
  simp [regionsValid, regionsDisjoint]

theorem textBaseValid_iff {textBase : Word} {n : Nat} : textBaseValid textBase n = true ↔
    8 ∣ textBase.toNat ∧ textBase.toNat + 8 * n ≤ 2 ^ 64 := by
  simp [textBaseValid, Nat.dvd_iff_mod_eq_zero]

theorem paramsValid_iff {p : Params} : paramsValid p = true ↔ LaunchConditions p := by
  simp only [paramsValid, LaunchConditions, Bool.and_eq_true, decide_eq_true_eq, functionsPartition_iff,
    regionsValid_iff, textBaseValid_iff, and_assoc]

theorem exists_launch_iff {input : LaunchInput} :
    (∃ s, launch input = some s) ↔ paramsValid input.params = true := by
  simp [launch]

section
variable {input : LaunchInput} {s : State}

theorem launch_live (h : launch input = some s) : s.Live := by
  obtain ⟨hvalid, rfl⟩ := launch_eq_some h
  obtain ⟨-, -, hentry, -⟩ := paramsValid_iff.mp hvalid
  exact ⟨hvalid, hentry, nofun⟩

theorem launch_canonical (h : launch input = some s) : s.Canonical := by
  obtain ⟨-, rfl⟩ := launch_eq_some h
  obtain ⟨hwf, hmapped⟩ := initialMemory_canonical input.params.memMap input.initMem
  exact ⟨hwf, hmapped, Nat.zero_le _⟩

end

/-- Settles O19: the test of the launch is the constraints of R291, and the state it gives starts at `ENTRY` with the
launch memory and no frame. -/
theorem launchRefusesBadInputOnly : Obligations.LaunchRefusesBadInputOnly :=
  ⟨fun _ => exists_launch_iff.trans paramsValid_iff, fun _ _ h => ⟨launch_live h, launch_canonical h⟩⟩

end Sys2Proof.Machine
end

section
/-! PROOFS. Well-formed programs: the instructions that transfer control, and what the test of a program asks of each
word of its text (R297). -/
namespace Sys2Proof.Machine
open Sys2Proof.Claim

/-! ## The instructions that transfer control -/

/-- `ja off`, or a conditional jump by `off`. -/
inductive Jump (off : Off) : Instr → Prop where
  | ja : Jump off (.ja off)
  | imm (c : Cond) (dst : Reg) (imm : Imm) : Jump off (jumpImmOf c dst imm off)
  | reg (c : Cond) (dst src : Reg) : Jump off (jumpRegOf c dst src off)

/-- The instructions of class 5. -/
inductive ControlFlow : Instr → Prop where
  | jump {i : Instr} (off : Off) (h : Jump off i) : ControlFlow i
  | call (off : Off) : ControlFlow (.call off)
  | callx (src : Reg) : ControlFlow (.callx src)
  | exit : ControlFlow .exit

/-- What is not sequential transfers control. -/
theorem controlFlow {i : Instr} (hseq : isSequential i = false) : ControlFlow i := by
  cases i with
  | ja off => exact .jump off .ja
  | jeqImm dst imm off => exact .jump off (.imm .eq dst imm)
  | jgtImm dst imm off => exact .jump off (.imm .gt dst imm)
  | jgeImm dst imm off => exact .jump off (.imm .ge dst imm)
  | jsetImm dst imm off => exact .jump off (.imm .set dst imm)
  | jneImm dst imm off => exact .jump off (.imm .ne dst imm)
  | jsgtImm dst imm off => exact .jump off (.imm .sgt dst imm)
  | jsgeImm dst imm off => exact .jump off (.imm .sge dst imm)
  | jltImm dst imm off => exact .jump off (.imm .lt dst imm)
  | jleImm dst imm off => exact .jump off (.imm .le dst imm)
  | jsltImm dst imm off => exact .jump off (.imm .slt dst imm)
  | jsleImm dst imm off => exact .jump off (.imm .sle dst imm)
  | jeqReg dst src off => exact .jump off (.reg .eq dst src)
  | jgtReg dst src off => exact .jump off (.reg .gt dst src)
  | jgeReg dst src off => exact .jump off (.reg .ge dst src)
  | jsetReg dst src off => exact .jump off (.reg .set dst src)
  | jneReg dst src off => exact .jump off (.reg .ne dst src)
  | jsgtReg dst src off => exact .jump off (.reg .sgt dst src)
  | jsgeReg dst src off => exact .jump off (.reg .sge dst src)
  | jltReg dst src off => exact .jump off (.reg .lt dst src)
  | jleReg dst src off => exact .jump off (.reg .le dst src)
  | jsltReg dst src off => exact .jump off (.reg .slt dst src)
  | jsleReg dst src off => exact .jump off (.reg .sle dst src)
  | call off => exact .call off
  | callx src => exact .callx src
  | exit => exact .exit
  | _ => cases hseq

/-- The sequential instructions are those outside class 5, which is the low three bits of the opcode (R28, R62). -/
theorem isSequential_eq (i : Instr) : isSequential i = (i.opcode.toNat % 8 != 5) := by
  cases i <;> simp [isSequential, Instr.opcode]

theorem endsFunction_eq (i : Instr) : endsFunction i = (i.opcode == 0x05 || i.opcode == 0x95) := by cases i <;> rfl

section
variable {p : Params} {slot : Nat} {f : FnRange} {off : Off} {i : Instr}

theorem Jump.opcode_mem (h : Jump off i) : i.opcode.toNat ∈ jumpOpcodes := by
  cases h with
  | ja => exact List.mem_cons_self
  | imm c dst imm => rw [opcode_jumpImmOf]; cases c <;> decide
  | reg c dst src => rw [opcode_jumpRegOf]; cases c <;> decide

theorem Jump.offField_encode (h : Jump off i) : offField (encode i) = off := by
  cases h with
  | ja => exact offField_mkWord ..
  | imm c => cases c <;> exact offField_mkWord ..
  | reg c => cases c <;> exact offField_mkWord ..

/-- The target of a jump is asked to lie in the function of its slot (R297 (b)). -/
theorem Jump.targetOk_iff (h : Jump off i) (hf : fnAt p slot = some f) :
    targetOk p slot i = true ↔ (f.start : Int) ≤ targetSlot slot off ∧ targetSlot slot off < f.stop := by
  have hja : targetOk p slot i = targetOk p slot (.ja off) := by
    cases h with
    | ja => rfl
    | imm c => cases c <;> rfl
    | reg c => cases c <;> rfl
  rw [hja, ← insideFn_iff]
  simp only [targetOk, hf]

/-- The target of a `call` is asked to lie in the text (R297 (b)). -/
theorem targetOk_call_iff :
    targetOk p slot (.call off) = true ↔ 0 ≤ targetSlot slot off ∧ targetSlot slot off < p.text.length :=
  insideFn_iff

theorem targetOk_of_sequential (hseq : isSequential i = true) : targetOk p slot i = true := by
  cases i with
  | ja | jeqImm | jgtImm | jgeImm | jsetImm | jneImm | jsgtImm | jsgeImm | jltImm | jleImm | jsltImm | jsleImm
  | jeqReg | jgtReg | jgeReg | jsetReg | jneReg | jsgtReg | jsgeReg | jltReg | jleReg | jsltReg | jsleReg
  | call => cases hseq
  | _ => rfl

end

/-! ## What the test asks of a word (R297) -/

section
variable {strict : Bool} {p : Params} {slot : Nat} {f : FnRange} {w : Word} {i : Instr}

theorem opcField_encode (i : Instr) : opcField (encode i) = i.opcode := by
  obtain ⟨shape, g, hs, hm⟩ := exists_row i
  rw [(hm.encode_eq hs).1, Fields.opcField_word]

/-- The word that decodes to `i` and the word of `i` agree in the fields that the row of their opcode uses. -/
theorem encode_of_decode (hd : decode strict w = .ok i) : ∃ shape, shapeOf (opcField w) = some shape ∧
    encode i = (shape.uses.keep (fieldsOf w)).word (opcField w) := by
  obtain ⟨-, shape, hs, hm, -⟩ := decode_eq_ok_iff.mp hd
  exact ⟨shape, hs, (hm.encode_eq hs).1⟩

theorem opcode_of_decode (hd : decode strict w = .ok i) : i.opcode = opcField w := by
  obtain ⟨shape, -, henc⟩ := encode_of_decode hd
  rw [← opcField_encode, henc, Fields.opcField_word]

/-- The rows of the jumps and of `call` use the `off` field. -/
theorem opcodeTable_offUsed : ∀ e ∈ opcodeTable, e.1.toNat ∈ jumpOpcodes ∨ e.1 = 0x85 → e.2.uses.off = true := by
  decide

theorem offField_encode_of_decode (hd : decode strict w = .ok i)
    (hopc : (opcField w).toNat ∈ jumpOpcodes ∨ opcField w = 0x85) : offField (encode i) = offField w := by
  obtain ⟨shape, hs, henc⟩ := encode_of_decode hd
  have huse := opcodeTable_offUsed _ (mem_opcodeTable_of_shapeOf hs) hopc
  simp [henc, Fields.word, FieldUse.keep, huse, fieldsOf]

theorem wordTarget_eq_targetSlot (slot : Nat) (w : Word) : wordTarget slot w = targetSlot slot (offField w) := by
  rw [wordTarget, targetSlot, sgn_toNat (by decide)]

theorem jumpOpcodes_class : ∀ n ∈ jumpOpcodes, n % 8 = 5 := by decide

/-- The test of the targets reads the opcode byte and the `off` field. -/
theorem targetOk_iff_of_decode (hd : decode strict w = .ok i) (hf : fnAt p slot = some f) :
    targetOk p slot i = true ↔
      ((opcField w).toNat ∈ jumpOpcodes → (f.start : Int) ≤ wordTarget slot w ∧ wordTarget slot w < f.stop) ∧
      (opcField w = 0x85 → 0 ≤ wordTarget slot w ∧ wordTarget slot w < p.text.length) := by
  have hoff := offField_encode_of_decode hd
  rw [← opcode_of_decode hd] at hoff ⊢
  rw [wordTarget_eq_targetSlot]
  cases hseq : isSequential i with
  | true =>
    have hclass : i.opcode.toNat % 8 ≠ 5 := by simpa [isSequential_eq] using hseq
    refine iff_of_true (targetOk_of_sequential hseq) ⟨fun hj => ?_, fun hc => ?_⟩
    · exact absurd (jumpOpcodes_class _ hj) hclass
    · exact absurd (by rw [hc]; rfl) hclass
  | false =>
    cases controlFlow hseq with
    | jump off h =>
      have hmem := h.opcode_mem
      have hcall : i.opcode ≠ 0x85 := fun hc => absurd (hc ▸ hmem) (by decide)
      rw [h.targetOk_iff hf, ← hoff (.inl hmem), h.offField_encode]
      exact ⟨fun hin => ⟨fun _ => hin, fun hc => absurd hc hcall⟩, fun ⟨hin, _⟩ => hin hmem⟩
    | call off =>
      rw [targetOk_call_iff, ← hoff (.inr rfl), show offField (encode (.call off)) = off from offField_mkWord ..]
      simp [Instr.opcode, jumpOpcodes]
    | callx | exit => exact iff_of_true rfl ⟨by simp [Instr.opcode, jumpOpcodes], by simp [Instr.opcode]⟩

/-- In a partition the test of the targets is clause (b) of the rule. -/
theorem targetOk_iff_clause (hp : FunctionsPartition p) (hlt : slot < p.text.length)
    (hd : decode strict w = .ok i) : targetOk p slot i = true ↔
      ((opcField w).toNat ∈ jumpOpcodes → ∀ g ∈ p.functions, g.start ≤ slot → slot < g.stop →
        (g.start : Int) ≤ wordTarget slot w ∧ wordTarget slot w < g.stop) ∧
      (opcField w = 0x85 → 0 ≤ wordTarget slot w ∧ wordTarget slot w < p.text.length) := by
  obtain ⟨f, hf⟩ := exists_fnAt hp hlt
  refine (targetOk_iff_of_decode hd hf).trans (and_congr_left' (imp_congr_right fun _ => ?_))
  exact (forall_range_iff hp hlt hf
    (Q := fun g => (g.start : Int) ≤ wordTarget slot w ∧ wordTarget slot w < g.stop)).symm

theorem decode_of_instrAt (hw : p.text[slot]? = some w) (hi : instrAt p slot = some i) :
    decode p.strictUnusedFields w = .ok i := by
  obtain ⟨v, hv, hd⟩ := instrAt_eq_some.mp hi
  cases hw.symm.trans hv
  exact hd

theorem endsFunction_iff_of_decode (hd : decode strict w = .ok i) :
    endsFunction i = true ↔ opcField w = 0x05 ∨ opcField w = 0x95 := by
  simp [endsFunction_eq, opcode_of_decode hd]

end

/-- Settles O60, clause by clause: (a) is decoding (O7), and the tests of (b) and (c) on an instruction are the rule's on
its word. -/
theorem programWellFormedIsTheRule : Obligations.ProgramWellFormedIsTheRule := by
  intro p hp
  constructor
  · intro h
    obtain ⟨hslots, hends⟩ := programWellFormed_iff.mp h
    refine ⟨fun w hw => exists_decode_iff.mp (decodes_of_programWellFormed h hw), fun slot w hw => ?_, fun f hf => ?_⟩
    · obtain ⟨hlt, -⟩ := List.getElem?_eq_some_iff.mp hw
      obtain ⟨i, hi, hok⟩ := hslots slot hlt
      exact (targetOk_iff_clause hp hlt (decode_of_instrAt hw hi)).mp hok
    · obtain ⟨i, hi, hend⟩ := hends f hf
      obtain ⟨w, hw, hd⟩ := instrAt_eq_some.mp hi
      exact ⟨w, hw, (endsFunction_iff_of_decode hd).mp hend⟩
  · rintro ⟨hvalid, htargets, hends⟩
    refine programWellFormed_iff.mpr ⟨fun slot hlt => ?_, fun f hf => ?_⟩
    · have hw := List.getElem?_eq_getElem hlt
      obtain ⟨i, hd⟩ := exists_decode_iff.mpr (hvalid _ (List.getElem_mem hlt))
      exact ⟨i, instrAt_eq_some.mpr ⟨_, hw, hd⟩, (targetOk_iff_clause hp hlt hd).mpr (htargets slot _ hw)⟩
    · obtain ⟨w, hw, hopc⟩ := hends f hf
      obtain ⟨i, hd⟩ := exists_decode_iff.mpr (hvalid w (List.mem_of_getElem? hw))
      exact ⟨i, instrAt_eq_some.mpr ⟨w, hw, hd⟩, (endsFunction_iff_of_decode hd).mpr hopc⟩

end Sys2Proof.Machine
end

section
/-! PROOFS. A machine that runs a well-formed program panics for its data only (R298). -/
namespace Sys2Proof.Machine
open Sys2Proof.Claim

/-! ## The step of a well-formed program -/

section
variable {i : Instr} {s t : State} {p : Panic}

/-- What a well-formed program has in the slot of a state (R297): an instruction with a good target, with room to
advance unless it may end a function. -/
structure WellPlaced (s : State) (i : Instr) : Prop where
  instrAt_eq : instrAt s.params s.pc = some i
  targetOk_eq : targetOk s.params s.pc i = true
  advances : endsFunction i = false → canAdvance s = true

theorem exists_wellPlaced (hs : s.Live) (hwf : programWellFormed s.params = true) : ∃ i, WellPlaced s i := by
  obtain ⟨hslots, hends⟩ := programWellFormed_iff.mp hwf
  obtain ⟨f, hf⟩ := hs.exists_fnAt
  obtain ⟨-, hpc, -⟩ := hs
  obtain ⟨i, hi, hok⟩ := hslots s.pc hpc
  refine ⟨i, hi, hok, fun hend => ?_⟩
  obtain ⟨hmem, -, hlt⟩ := fnAt_some hf
  obtain hnext | hlast := Nat.lt_or_ge (s.pc + 1) f.stop
  · exact canAdvance_iff.mpr ⟨f, hf, hnext⟩
  · obtain ⟨j, hj, hjend⟩ := hends f hmem
    rw [show f.stop - 1 = s.pc by omega, hi] at hj
    cases hj
    cases hjend.symm.trans hend

/-- A sequential instruction that can advance raises none but its own panics: without one it comes to its advance, which
moves `pc`. -/
theorem ownPanic_of_canAdvance (hseq : isSequential i = true) (hadv : canAdvance s = true) (hs : s.status = .running)
    (h : exec i s = .next t) (ht : t.status = .faulted p) : ownPanic i p = true := by
  have hr : ∀ r ∈ reads i, s.reg r ≠ .unwritten := fun r hmem hu => by
    obtain ⟨q, -, -, hrefused⟩ := refusesRead_of_unwritten ⟨r, hmem, hu⟩
    cases hrefused.symm.trans h
  obtain rfl := (exec_effect h).eq_panicked hs ht
  cases prepared_of_sequential hseq hr with
  | raises q own run =>
    cases (run s.params.functions).symm.trans h
    exact own
  | advances write run =>
    have hnext := ((run s.params.functions).trans (advance_of_canAdvance _ hadv)).symm.trans h
    have hpc : s.pc + 1 = s.pc := congrArg State.pc (Host.Outcome.next.inj hnext)
    omega

/-- No bad target is an own panic of a sequential instruction (R263). -/
theorem ownPanic_targetOutOfBounds_of_sequential (hseq : isSequential i = true) (pc : Nat) (tgt : Target) :
    ownPanic i (.targetOutOfBounds pc tgt) = false := by
  cases i with
  | ja | jeqImm | jgtImm | jgeImm | jsetImm | jneImm | jsgtImm | jsgeImm | jltImm | jleImm | jsltImm | jsleImm
  | jeqReg | jgtReg | jgeReg | jsetReg | jneReg | jsgtReg | jsgeReg | jltReg | jleReg | jsltReg | jsleReg
  | call | callx | exit => cases hseq
  | _ => rfl

/-- Of the panics of an instruction only a bad target can come from the program and not from its data. -/
theorem dataDependent_of_raisedAt (h : RaisedAt s.pc p) (htgt : ∀ tgt, p ≠ .targetOutOfBounds s.pc tgt) :
    DataDependent s p := by
  cases h with
  | divisionByZero => exact .inl rfl
  | negativeOverflow => exact .inr (.inl rfl)
  | stackOverflow => exact .inr (.inr (.inl rfl))
  | memoryOutOfBounds ea n access => exact .inr (.inr (.inr (.inl ⟨ea, n, access, rfl⟩)))
  | accessViolation ea n => exact .inr (.inr (.inr (.inr (.inl ⟨ea, n, rfl⟩))))
  | targetOutOfBounds tgt => exact absurd rfl (htgt tgt)

theorem endsFunction_of_sequential (hseq : isSequential i = true) : endsFunction i = false := by
  rw [endsFunction_eq, Bool.eq_false_iff]
  intro hend
  obtain hopc | hopc : i.opcode = 0x05 ∨ i.opcode = 0x95 := by simpa using hend
  all_goals simp [isSequential_eq, hopc] at hseq

theorem jump_not_faulted {off : Off} (hs : s.status = .running)
    (hin : ∀ f, fnAt s.params s.pc = some f → (f.start : Int) ≤ targetSlot s.pc off ∧ targetSlot s.pc off < f.stop)
    (h : jump off s = .next t) : t.status ≠ .faulted p := by
  intro ht
  obtain ⟨f, hf, ⟨-, -, rfl⟩ | ⟨hout, -⟩⟩ := jump_next h
  · cases hs.symm.trans ht
  · have := hin f hf
    omega

theorem jumpIf_not_faulted {c : Bool} {off : Off} (hs : s.status = .running) (hadv : canAdvance s = true)
    (hin : ∀ f, fnAt s.params s.pc = some f → (f.start : Int) ≤ targetSlot s.pc off ∧ targetSlot s.pc off < f.stop)
    (h : jumpIf c off s = .next t) : t.status ≠ .faulted p := by
  intro ht
  obtain ⟨f, hf, ⟨hout, -⟩ | ⟨-, -, ⟨-, rfl⟩ | ⟨-, -, rfl⟩ | ⟨-, hlast, -⟩⟩⟩ := jumpIf_next h
  · have := hin f hf
    omega
  · cases hs.symm.trans ht
  · cases hs.symm.trans ht
  · cases hadv.symm.trans (canAdvance_last hf hlast)

/-- Of the jumps only `ja`, which has no next slot to fall through to, may end a function. -/
theorem Jump.exec_next {off : Off} (hj : Jump off i) (h : exec i s = .next t) :
    jump off s = .next t ∨ (endsFunction i = false ∧ ∃ c, jumpIf c off s = .next t) := by
  cases hj with
  | ja => exact .inl h
  | imm c dst imm =>
    obtain ⟨a, -, h⟩ := jumpIfImm_next (exec_jumpImmOf .. ▸ h)
    exact .inr ⟨by cases c <;> rfl, _, h⟩
  | reg c dst src =>
    obtain ⟨a, b, -, -, h⟩ := jumpIfReg_next (exec_jumpRegOf .. ▸ h)
    exact .inr ⟨by cases c <;> rfl, _, h⟩

/-- A jump of a well-formed program does not panic. -/
theorem Jump.not_faulted {off : Off} (hj : Jump off i) (hw : WellPlaced s i) (hs : s.status = .running)
    (h : exec i s = .next t) : t.status ≠ .faulted p := by
  have hin (f : FnRange) (hf : fnAt s.params s.pc = some f) := (hj.targetOk_iff hf).mp hw.targetOk_eq
  obtain hjump | ⟨hend, c, hjump⟩ := hj.exec_next h
  · exact jump_not_faulted hs hin hjump
  · exact jumpIf_not_faulted hs (hw.advances hend) hin hjump

/-- A call that can advance panics at full depth, or where it has no target in the text. -/
theorem panic_of_callTo_canAdvance {target : Option Nat} {reported : Target} (hs : s.status = .running)
    (hadv : canAdvance s = true) (h : callTo target reported s = .next t) (ht : t.status = .faulted p) :
    p = .stackOverflow s.pc ∨ (target = none ∧ p = .targetOutOfBounds s.pc reported) := by
  obtain ⟨-, rfl⟩ | ⟨-, ⟨hnone, rfl⟩ | ⟨n, f, -, hf, ⟨hlast, -⟩ | ⟨-, rfl⟩⟩⟩ := callTo_next h
  · cases ht; exact .inl rfl
  · cases ht; exact .inr ⟨hnone, rfl⟩
  · cases hadv.symm.trans (canAdvance_last hf hlast)
  · cases hs.symm.trans ht

theorem slotOfAddress_none {q : Params} {a : Word} :
    slotOfAddress q.textBase q.text.length a = none ↔ BadTextAddress q a := by
  unfold slotOfAddress BadTextAddress
  split <;> simp_all

/-- In a well-formed program an instruction raises a panic of R298: a sequential one its own, a jump none, a call where
the stack is full, and `callx` also where its operand is a bad address. -/
theorem dataDependent_of_exec (hw : WellPlaced s i) (hs : s.status = .running) (h : exec i s = .next t)
    (ht : t.status = .faulted p) : DataDependent s p := by
  cases hseq : isSequential i with
  | true =>
    have hown := ownPanic_of_canAdvance hseq (hw.advances (endsFunction_of_sequential hseq)) hs h ht
    refine dataDependent_of_raisedAt (raisedAt_of_exec h hs ht) ?_
    rintro tgt rfl
    cases hown.symm.trans (ownPanic_targetOutOfBounds_of_sequential hseq s.pc tgt)
  | false =>
    cases controlFlow hseq with
    | jump off hj => exact absurd ht (hj.not_faulted hw hs h)
    | call off =>
      obtain rfl | ⟨hnone, -⟩ := panic_of_callTo_canAdvance hs (hw.advances rfl) h ht
      · exact dataDependent_of_raisedAt .stackOverflow nofun
      · have hout := slotInText_none.mp hnone
        have hin := targetOk_call_iff.mp hw.targetOk_eq
        omega
    | callx src =>
      obtain ⟨a, ha, h⟩ := withReg_next h
      obtain rfl | ⟨hnone, rfl⟩ := panic_of_callTo_canAdvance hs (hw.advances rfl) h ht
      · exact dataDependent_of_raisedAt .stackOverflow nofun
      · have hbad := slotOfAddress_none.mp hnone
        exact .inr (.inr (.inr (.inr (.inr ⟨src, a, hw.instrAt_eq, ha, hbad, rfl⟩))))
    | exit => exact absurd ht (returnOrHalt_not_faulted hs h)

theorem dataDependent_of_step (hs : s.Live) (hwf : programWellFormed s.params = true) (h : step s = .next t)
    (ht : t.status = .faulted p) : DataDependent s p := by
  obtain ⟨i, hw⟩ := exists_wellPlaced hs hwf
  obtain ⟨hrun, -⟩ := step_next h
  exact dataDependent_of_exec hw hrun (step_of_instrAt hrun hw.instrAt_eq ▸ h) ht

end

/-! ## Runs -/

section
variable {M : Host.Core} {s t : M.State} {k : Nat}

theorem run_succ_next (h : M.run (k + 1) s = .next t) : ∃ u, M.step s = .next u ∧ M.run k u = .next t := by
  unfold Host.Core.run at h
  split at h
  · exact ⟨_, ‹_›, h⟩
  · cases h
  · cases h

/-- What every step keeps holds at the end of every run that answers a state. -/
theorem run_invariant {P : M.State → Prop} (hstep : ∀ s t, P s → M.step s = .next t → P t) (hs : P s)
    (h : M.run k s = .next t) : P t := by
  induction k generalizing s with
  | zero => cases h; exact hs
  | succ k ih =>
    obtain ⟨u, hu, hrun⟩ := run_succ_next h
    exact ih (hstep s u hs hu) hrun

end

section
variable {s t : State}

/-- A live state with a well-formed program, faulted, if at all, for its data. -/
structure FaultsOnDataOnly (s : State) : Prop where
  live : s.Live
  wellFormed : programWellFormed s.params = true
  dataDependent : ∀ p, s.status = .faulted p → DataDependent s p

/-- A panic is recorded in the state it leaves, which has the same slot, registers and parameters. -/
theorem FaultsOnDataOnly.step (hs : FaultsOnDataOnly s) (h : step s = .next t) : FaultsOnDataOnly t where
  live := everyStepKeepsTheLaunchInvariant s t hs.live h
  wellFormed := by rw [step_params h, hs.wellFormed]
  dataDependent p ht := by
    have hdata := dataDependent_of_step hs.live hs.wellFormed h ht
    obtain rfl := step_eq_panicked h ht
    exact hdata

theorem faultsOnDataOnly_of_launch {input : LaunchInput} (h : launch input = some s)
    (hwf : programWellFormed input.params = true) : FaultsOnDataOnly s where
  live := launch_live h
  wellFormed := by
    obtain ⟨-, rfl⟩ := launch_eq_some h
    exact hwf
  dataDependent p hp := by
    obtain ⟨-, rfl⟩ := launch_eq_some h
    cases hp

end

/-- Settles O21: the invariant `FaultsOnDataOnly` holds at the launch, and every step keeps it. -/
theorem wellFormedProgramsPanicOnDataOnly : Obligations.WellFormedProgramsPanicOnDataOnly := by
  refine ⟨fun s t p hs hwf h ht => dataDependent_of_step hs hwf h ht, fun input s t k p hl hwf h ht => ?_⟩
  have hlaunch := faultsOnDataOnly_of_launch hl hwf
  have hend := run_invariant (M := Sys2Proof.core) (fun _ _ hs => FaultsOnDataOnly.step hs) hlaunch h
  exact hend.dataDependent p ht

end Sys2Proof.Machine
end
